-- ==== Sys2Proof/Word.lean ====
section
/-! DEFINITION. The value types of the machine: bytes, words, addresses, register and key numbers. -/

namespace Sys2Proof

/-- An 8-bit value: a general register, a timer, a byte of memory (10_state.md R21, R30, R32). -/
abbrev Byte := BitVec 8

/-- A 16-bit value: an instruction word, `PC`, `I`, a return address (10_state.md R24, R27, R28). -/
abbrev Word := BitVec 16

/-- A 12-bit address literal `nnn` (00_scope.md R13). -/
abbrev Addr := BitVec 12

/-- The number of a general register, 0 to 15 (00_scope.md R13). -/
abbrev Reg := Fin 16

/-- The number of a logical key, 0 to 15 (60_exceptions.md R248). -/
abbrev Key := Fin 16

/-- VF, the flag register `V[15]` (10_state.md R22). -/
abbrev VF : Reg := 15

end Sys2Proof
end

