-- ==== Sys2Proof/WellFormed.lean ====
section
/-! DEFINITION. Which instructions have a word. The field types carry every width, so one check is left: 00E0 and 00EE are
`CLS` and `RET`, so `SYS` cannot have those two literals (30_encoding.md R94, R95 row 1). -/

namespace Sys2Proof

/-- The instruction has a word of its own. -/
def Instr.wf : Instr → Bool
  | .cls => true
  | .ret => true
  | .sys nnn => nnn != 0x0E0#12 && nnn != 0x0EE#12
  | .jp _ => true
  | .call _ => true
  | .seImm _ _ => true
  | .sneImm _ _ => true
  | .seReg _ _ => true
  | .ldImm _ _ => true
  | .addImm _ _ => true
  | .ldReg _ _ => true
  | .orReg _ _ => true
  | .andReg _ _ => true
  | .xorReg _ _ => true
  | .addReg _ _ => true
  | .sub _ _ => true
  | .shr _ _ => true
  | .subn _ _ => true
  | .shl _ _ => true
  | .sneReg _ _ => true
  | .ldI _ => true
  | .jpV0 _ => true
  | .rnd _ _ => true
  | .drw _ _ _ => true
  | .skp _ => true
  | .sknp _ => true
  | .ldVxDt _ => true
  | .ldVxK _ => true
  | .ldDtVx _ => true
  | .ldStVx _ => true
  | .addI _ => true
  | .ldF _ => true
  | .ldB _ => true
  | .stRegs _ => true
  | .ldRegs _ => true

end Sys2Proof
end

