-- ==== Sys2Proof/Decode.lean ====
section
/-! DEFINITION. From words to instructions and back. `decode` follows the procedure of 30_encoding.md R94, `encode` the formats of
R92 and the patterns of R95, and `opcodeMap` is the table of R95 itself, row by row. -/

namespace Sys2Proof

/-- Why a decode gives no instruction. -/
inductive DecodeError
  /-- The word matches no row of the opcode map (30_encoding.md R96); the step raises `UnknownOpcode`. -/
  | unknownOpcode (w : Word)
  /-- Fewer than two bytes: no whole word. No step meets this, since a fetch always reads two bytes. -/
  | truncated
  deriving DecidableEq, Repr

/-! ### Fields of a word (00_scope.md R13, 30_encoding.md R91) -/

/-- `op` = `w[15:12]`. -/
def fieldOp (w : Word) : Nat := (w.extractLsb' 12 4).toNat

/-- `x` = `w[11:8]`. -/
def fieldX (w : Word) : Reg := (w.extractLsb' 8 4).toFin

/-- `y` = `w[7:4]`. -/
def fieldY (w : Word) : Reg := (w.extractLsb' 4 4).toFin

/-- `n` = `w[3:0]`. -/
def fieldN (w : Word) : Fin 16 := (w.extractLsb' 0 4).toFin

/-- `kk` = `w[7:0]`. -/
def fieldKK (w : Word) : Byte := w.extractLsb' 0 8

/-- `nnn` = `w[11:0]`. -/
def fieldNNN (w : Word) : Addr := w.extractLsb' 0 12

/-! ### Decoding (30_encoding.md R94) -/

/-- Leading nibble 0: `CLS` and `RET` are exact words, every other word is `SYS`. -/
def decode0 (w : Word) : Except DecodeError Instr :=
  if w = 0x00E0#16 then .ok .cls
  else if w = 0x00EE#16 then .ok .ret
  else .ok (.sys (fieldNNN w))

/-- Leading nibble 8: the trailing nibble selects. -/
def decode8 (w : Word) : Except DecodeError Instr :=
  match (fieldN w).val with
  | 0x0 => .ok (.ldReg (fieldX w) (fieldY w))
  | 0x1 => .ok (.orReg (fieldX w) (fieldY w))
  | 0x2 => .ok (.andReg (fieldX w) (fieldY w))
  | 0x3 => .ok (.xorReg (fieldX w) (fieldY w))
  | 0x4 => .ok (.addReg (fieldX w) (fieldY w))
  | 0x5 => .ok (.sub (fieldX w) (fieldY w))
  | 0x6 => .ok (.shr (fieldX w) (fieldY w))
  | 0x7 => .ok (.subn (fieldX w) (fieldY w))
  | 0xE => .ok (.shl (fieldX w) (fieldY w))
  | _ => .error (.unknownOpcode w)

/-- Leading nibble E: the trailing byte selects. -/
def decodeE (w : Word) : Except DecodeError Instr :=
  if fieldKK w = 0x9E#8 then .ok (.skp (fieldX w))
  else if fieldKK w = 0xA1#8 then .ok (.sknp (fieldX w))
  else .error (.unknownOpcode w)

/-- Leading nibble F: the trailing byte selects. -/
def decodeF (w : Word) : Except DecodeError Instr :=
  if fieldKK w = 0x07#8 then .ok (.ldVxDt (fieldX w))
  else if fieldKK w = 0x0A#8 then .ok (.ldVxK (fieldX w))
  else if fieldKK w = 0x15#8 then .ok (.ldDtVx (fieldX w))
  else if fieldKK w = 0x18#8 then .ok (.ldStVx (fieldX w))
  else if fieldKK w = 0x1E#8 then .ok (.addI (fieldX w))
  else if fieldKK w = 0x29#8 then .ok (.ldF (fieldX w))
  else if fieldKK w = 0x33#8 then .ok (.ldB (fieldX w))
  else if fieldKK w = 0x55#8 then .ok (.stRegs (fieldX w))
  else if fieldKK w = 0x65#8 then .ok (.ldRegs (fieldX w))
  else .error (.unknownOpcode w)

/-- The decoder: a pure function of the word, selecting on the leading nibble (30_encoding.md R94). -/
def decode (w : Word) : Except DecodeError Instr :=
  match fieldOp w with
  | 0x0 => decode0 w
  | 0x1 => .ok (.jp (fieldNNN w))
  | 0x2 => .ok (.call (fieldNNN w))
  | 0x3 => .ok (.seImm (fieldX w) (fieldKK w))
  | 0x4 => .ok (.sneImm (fieldX w) (fieldKK w))
  | 0x5 => if (fieldN w).val = 0 then .ok (.seReg (fieldX w) (fieldY w)) else .error (.unknownOpcode w)
  | 0x6 => .ok (.ldImm (fieldX w) (fieldKK w))
  | 0x7 => .ok (.addImm (fieldX w) (fieldKK w))
  | 0x8 => decode8 w
  | 0x9 => if (fieldN w).val = 0 then .ok (.sneReg (fieldX w) (fieldY w)) else .error (.unknownOpcode w)
  | 0xA => .ok (.ldI (fieldNNN w))
  | 0xB => .ok (.jpV0 (fieldNNN w))
  | 0xC => .ok (.rnd (fieldX w) (fieldKK w))
  | 0xD => .ok (.drw (fieldX w) (fieldY w) (fieldN w))
  | 0xE => decodeE w
  | _ => decodeF w

/-- `{hi, lo}`: the word of two bytes, the first fetched in bits 15 to 8 (20_memory.md R61, R63). -/
def wordOfBytes (hi lo : Byte) : Word := hi ++ lo

/-- The decoder on a stream of bytes: one instruction and the rest of the stream. -/
def decodeBytes : List Byte → Except DecodeError (Instr × List Byte)
  | hi :: lo :: rest =>
    match decode (wordOfBytes hi lo) with
    | .ok i => .ok (i, rest)
    | .error e => .error e
  | _ => .error .truncated

/-! ### Encoding (30_encoding.md R92, R95) -/

/-- Format A: `op n n n`. -/
def formatA (op : BitVec 4) (nnn : Addr) : Word := op ++ nnn

/-- Format I: `op x k k`. -/
def formatI (op : BitVec 4) (x : Reg) (kk : Byte) : Word := op ++ (BitVec.ofFin x : BitVec 4) ++ kk

/-- Formats R (`n` = the fixed trailing nibble) and D (`n` = the sprite height): `op x y n`. -/
def formatR (op : BitVec 4) (x y : Reg) (n : Fin 16) : Word :=
  op ++ (BitVec.ofFin x : BitVec 4) ++ (BitVec.ofFin y : BitVec 4) ++ (BitVec.ofFin n : BitVec 4)

/-- Format X: `op x s s`. -/
def formatX (op : BitVec 4) (x : Reg) (ss : Byte) : Word := op ++ (BitVec.ofFin x : BitVec 4) ++ ss

/-- The word of an instruction. -/
def encode : Instr → Word
  | .cls => 0x00E0#16
  | .ret => 0x00EE#16
  | .sys nnn => formatA 0x0#4 nnn
  | .jp nnn => formatA 0x1#4 nnn
  | .call nnn => formatA 0x2#4 nnn
  | .seImm x kk => formatI 0x3#4 x kk
  | .sneImm x kk => formatI 0x4#4 x kk
  | .seReg x y => formatR 0x5#4 x y 0x0
  | .ldImm x kk => formatI 0x6#4 x kk
  | .addImm x kk => formatI 0x7#4 x kk
  | .ldReg x y => formatR 0x8#4 x y 0x0
  | .orReg x y => formatR 0x8#4 x y 0x1
  | .andReg x y => formatR 0x8#4 x y 0x2
  | .xorReg x y => formatR 0x8#4 x y 0x3
  | .addReg x y => formatR 0x8#4 x y 0x4
  | .sub x y => formatR 0x8#4 x y 0x5
  | .shr x y => formatR 0x8#4 x y 0x6
  | .subn x y => formatR 0x8#4 x y 0x7
  | .shl x y => formatR 0x8#4 x y 0xE
  | .sneReg x y => formatR 0x9#4 x y 0x0
  | .ldI nnn => formatA 0xA#4 nnn
  | .jpV0 nnn => formatA 0xB#4 nnn
  | .rnd x kk => formatI 0xC#4 x kk
  | .drw x y n => formatR 0xD#4 x y n
  | .skp x => formatX 0xE#4 x 0x9E#8
  | .sknp x => formatX 0xE#4 x 0xA1#8
  | .ldVxDt x => formatX 0xF#4 x 0x07#8
  | .ldVxK x => formatX 0xF#4 x 0x0A#8
  | .ldDtVx x => formatX 0xF#4 x 0x15#8
  | .ldStVx x => formatX 0xF#4 x 0x18#8
  | .addI x => formatX 0xF#4 x 0x1E#8
  | .ldF x => formatX 0xF#4 x 0x29#8
  | .ldB x => formatX 0xF#4 x 0x33#8
  | .stRegs x => formatX 0xF#4 x 0x55#8
  | .ldRegs x => formatX 0xF#4 x 0x65#8

/-! ### The opcode map as the spec prints it (30_encoding.md R95) -/

/-- A row of the opcode map: a word `w` selects it when `w &&& mask = pattern`. -/
structure OpcodeRow where
  mask : Word
  pattern : Word
  build : Word → Instr

/-- Rows with no `x` field, in the order of opcode_table.json: `SYS` (row 1) after `CLS` and `RET`. -/
def opcodeMapAE : List OpcodeRow :=
  [⟨0xFFFF, 0x00E0, fun _ => .cls⟩, ⟨0xFFFF, 0x00EE, fun _ => .ret⟩, ⟨0xF000, 0x0000, fun w => .sys (fieldNNN w)⟩,
   ⟨0xF000, 0x1000, fun w => .jp (fieldNNN w)⟩, ⟨0xF000, 0x2000, fun w => .call (fieldNNN w)⟩,
   ⟨0xF000, 0xA000, fun w => .ldI (fieldNNN w)⟩, ⟨0xF000, 0xB000, fun w => .jpV0 (fieldNNN w)⟩]

/-- Rows of format I. -/
def opcodeMapI : List OpcodeRow :=
  [⟨0xF000, 0x3000, fun w => .seImm (fieldX w) (fieldKK w)⟩, ⟨0xF000, 0x4000, fun w => .sneImm (fieldX w) (fieldKK w)⟩,
   ⟨0xF000, 0x6000, fun w => .ldImm (fieldX w) (fieldKK w)⟩, ⟨0xF000, 0x7000, fun w => .addImm (fieldX w) (fieldKK w)⟩,
   ⟨0xF000, 0xC000, fun w => .rnd (fieldX w) (fieldKK w)⟩]

/-- Rows of formats R and D. -/
def opcodeMapRD : List OpcodeRow :=
  [⟨0xF00F, 0x5000, fun w => .seReg (fieldX w) (fieldY w)⟩, ⟨0xF00F, 0x8000, fun w => .ldReg (fieldX w) (fieldY w)⟩,
   ⟨0xF00F, 0x8001, fun w => .orReg (fieldX w) (fieldY w)⟩, ⟨0xF00F, 0x8002, fun w => .andReg (fieldX w) (fieldY w)⟩,
   ⟨0xF00F, 0x8003, fun w => .xorReg (fieldX w) (fieldY w)⟩, ⟨0xF00F, 0x8004, fun w => .addReg (fieldX w) (fieldY w)⟩,
   ⟨0xF00F, 0x8005, fun w => .sub (fieldX w) (fieldY w)⟩, ⟨0xF00F, 0x8006, fun w => .shr (fieldX w) (fieldY w)⟩,
   ⟨0xF00F, 0x8007, fun w => .subn (fieldX w) (fieldY w)⟩, ⟨0xF00F, 0x800E, fun w => .shl (fieldX w) (fieldY w)⟩,
   ⟨0xF00F, 0x9000, fun w => .sneReg (fieldX w) (fieldY w)⟩,
   ⟨0xF000, 0xD000, fun w => .drw (fieldX w) (fieldY w) (fieldN w)⟩]

/-- Rows of format X. -/
def opcodeMapX : List OpcodeRow :=
  [⟨0xF0FF, 0xE09E, fun w => .skp (fieldX w)⟩, ⟨0xF0FF, 0xE0A1, fun w => .sknp (fieldX w)⟩,
   ⟨0xF0FF, 0xF007, fun w => .ldVxDt (fieldX w)⟩, ⟨0xF0FF, 0xF00A, fun w => .ldVxK (fieldX w)⟩,
   ⟨0xF0FF, 0xF015, fun w => .ldDtVx (fieldX w)⟩, ⟨0xF0FF, 0xF018, fun w => .ldStVx (fieldX w)⟩,
   ⟨0xF0FF, 0xF01E, fun w => .addI (fieldX w)⟩, ⟨0xF0FF, 0xF029, fun w => .ldF (fieldX w)⟩,
   ⟨0xF0FF, 0xF033, fun w => .ldB (fieldX w)⟩, ⟨0xF0FF, 0xF055, fun w => .stRegs (fieldX w)⟩,
   ⟨0xF0FF, 0xF065, fun w => .ldRegs (fieldX w)⟩]

/-- The 35 rows of the opcode map. Only rows 1 to 3 of the spec's table overlap, and `CLS`, `RET` stand before `SYS`. -/
def opcodeMap : List OpcodeRow := opcodeMapAE ++ opcodeMapI ++ opcodeMapRD ++ opcodeMapX

/-- The host's question: what the decoder reads from a table row's word. A word is 16 bits, stored high byte first, so bit 0 of
`w` is the least significant bit of that one word; every bit above `nbits` is 0. -/
def decodeTableWord (nbits w : Nat) : Option Instr :=
  match decodeBytes [BitVec.ofNat 8 (w % 2 ^ nbits / 256), BitVec.ofNat 8 (w % 2 ^ nbits)] with
  | .ok (i, _) => some i
  | .error _ => none

end Sys2Proof
end

