-- ==== Sys2Proof/Config.lean ====
section
/-! DEFINITION. What an implementation fixes (the parameters a power-on takes) and the model's free values. -/

namespace Sys2Proof

/-- The shift selector `SHIFT_QUIRK` (00_scope.md R8): which register `SHR` and `SHL` shift. -/
inductive ShiftQuirk
  | vxOnly
  | vyToVx
  deriving DecidableEq, Repr

/-- The jump selector `JUMP_QUIRK` (00_scope.md R8): which register opcode Bnnn adds. -/
inductive JumpQuirk
  | v0
  | vx
  deriving DecidableEq, Repr

/-- `cfg`, the parameters sampled once at power-on (10_state.md R35). -/
structure Cfg where
  shiftQuirk : ShiftQuirk
  jumpQuirk : JumpQuirk
  fontBase : Addr
  deriving DecidableEq, Repr

/-- The requirement of 00_scope.md R7: the 80 font bytes lie below the program. -/
abbrev Cfg.wf (c : Cfg) : Prop := c.fontBase.toNat + 80 ≤ 0x200

/-- The free draw: the byte a `Step` is given when the host's list of inputs says nothing (log entry 2).
It has no body: a claim about it holds whatever bytes the machine draws (41_load_arith_logic.md R170). -/
opaque Config.freeDraw : Nat → Byte

end Sys2Proof
end

