-- ==== Sys2Proof/Machine/Defaults.lean ====
section
/-! DEFINITION. The constants of power-on: sizes (00_scope.md R6), the parameters' documented defaults (R7, R8), the font bytes
(10_state.md R42), and the byte every address holds at power-on with the default parameters. -/

namespace Sys2Proof.Machine

/-- `MEM_SIZE`, the size of the address space in bytes (00_scope.md R6). -/
def memSize : Nat := 4096

/-- `ROM_BASE`, the program load address and the entry point (00_scope.md R6). -/
def romBase : Nat := 0x200

/-- `ROM_MAX`, the largest program image in bytes (00_scope.md R6). -/
def romMax : Nat := 3584

/-- `FILL`, the power-on byte of memory that is neither font nor program (00_scope.md R7, decision D3). -/
def fill : Byte := 0x00

/-- The documented defaults of the open parameters (00_scope.md R7, R8, decisions D1, D8, D9). DESIGN CHOICE: reset takes them
(log entry 6). -/
def defaultCfg : Cfg := { shiftQuirk := .vxOnly, jumpQuirk := .v0, fontBase := 0x000 }

/-- `FONT_BYTES` in address order, five bytes for each digit 0 to F (10_state.md R42). -/
def fontBytes : List Byte :=
  [0xF0, 0x90, 0x90, 0x90, 0xF0, 0x20, 0x60, 0x20, 0x20, 0x70, 0xF0, 0x10, 0xF0, 0x80, 0xF0, 0xF0, 0x10, 0xF0, 0x10, 0xF0] ++
  [0x90, 0x90, 0xF0, 0x10, 0x10, 0xF0, 0x80, 0xF0, 0x10, 0xF0, 0xF0, 0x80, 0xF0, 0x90, 0xF0, 0xF0, 0x10, 0x20, 0x40, 0x40] ++
  [0xF0, 0x90, 0xF0, 0x90, 0xF0, 0xF0, 0x90, 0xF0, 0x10, 0xF0, 0xF0, 0x90, 0xF0, 0x90, 0x90, 0xE0, 0x90, 0xE0, 0x90, 0xE0] ++
  [0xF0, 0x80, 0x80, 0x80, 0xF0, 0xE0, 0x90, 0x90, 0x90, 0xE0, 0xF0, 0x80, 0xF0, 0x80, 0xF0, 0xF0, 0x80, 0xF0, 0x80, 0x80]

/-- What an address that memory does not list reads as: the power-on contents with the default parameters and no program, that is
the font at its default address and `FILL` elsewhere (20_memory.md R67, log entry 9). -/
def unlistedByte (a : Nat) : Byte :=
  if defaultCfg.fontBase.toNat ≤ a then fontBytes.getD (a - defaultCfg.fontBase.toNat) fill else fill

end Sys2Proof.Machine
end

