-- ==== Sys2Proof/Machine/State.lean ====
section
/-! DEFINITION. The state of the machine, why it can stop, and the state right after reset (10_state.md R20, R40). -/

namespace Sys2Proof.Machine

/-- The run state (10_state.md R36). -/
inductive RunState
  /-- `RUNNING`: the next `Step` fetches and executes. -/
  | running
  /-- `WAIT_KEY`: `LD Vx, K` has been issued and not yet satisfied. -/
  | waitKey
  /-- `HALTED`: a fatal fault was raised. -/
  | halted
  deriving DecidableEq, Repr

/-- The fault kinds a step raises (60_exceptions.md R230). -/
inductive FaultKind
  | unknownOpcode
  | stackOverflow
  | stackUnderflow
  | outOfRangeJump
  deriving DecidableEq, Repr

/-- One transition the host can ask for (00_scope.md R9). -/
inductive Input
  /-- `Step(rnd)` -/
  | step (rnd : Byte)
  /-- `TimerTick` -/
  | timerTick
  /-- `KeyEvent(k, p)` -/
  | keyEvent (k : Key) (pressed : Bool)
  /-- `PowerOn(cfg, rom)` -/
  | powerOn (cfg : Cfg) (rom : List Byte)
  deriving DecidableEq, Repr

/-- Memory: (address, byte) pairs in one canonical form (`Memory.wf`); what an address not listed holds is `unlistedByte`. -/
abbrev Memory := List Host.Cell

/-- The display buffer `fb[r][c]`: 32 rows of 64 columns of one bit (10_state.md R33). -/
abbrev Display := Vector (Vector Bool 64) 32

/-- The state: the spec's tuple (10_state.md R20), then the host's side as data (log entries 1 and 2). -/
structure State where
  /-- `V[0..15]` (R21); `V[15]` is the flag register VF (R22). -/
  v : Vector Byte 16
  /-- `I` (R27). -/
  i : Word
  /-- `PC` (R24). -/
  pc : Word
  /-- `stack[0..15]` (R28). -/
  stack : Vector Word 16
  /-- `SP`, how many return addresses the stack holds, 0 to 16 (R29). -/
  sp : Fin 17
  /-- `DT` (R30). -/
  dt : Byte
  /-- `ST` (R30). -/
  st : Byte
  /-- `mem[0..4095]` (R32). -/
  mem : Memory
  /-- `fb[0..31][0..63]` (R33). -/
  fb : Display
  /-- `keys[0..15]`, true = pressed (R34). -/
  keys : Vector Bool 16
  /-- `run` (R36). -/
  run : RunState
  /-- `wait_reg` (R34). -/
  waitReg : Reg
  /-- `hit_valid` (R34). -/
  hitValid : Bool
  /-- `hit_key` (R34). -/
  hitKey : Key
  /-- `err_cause`, `none` for code 0 (R37). -/
  errCause : Option FaultKind
  /-- `err_addr` (R37). -/
  errAddr : Word
  /-- `err_word` (R37). -/
  errWord : Word
  /-- `cfg` (R35). -/
  cfg : Cfg
  /-- The model's own: the host's transitions still to come, oldest first (log entry 1). -/
  inputs : List Input
  /-- The model's own: the draw `rnd` of the current `Step(rnd)` (log entry 2). -/
  rnd : Byte
  /-- The model's own: how many free draws have been taken (log entry 2). -/
  draws : Nat
  deriving DecidableEq, Repr

/-- Why the machine stops with a fault. The four faults of a running machine are NOT here: the spec describes their entry, so
they are next states in which `run` is `HALTED` (60_exceptions.md R232, log entry 3). -/
inductive Fault
  /-- `LoadError`: raised by `PowerOn` alone, for an image above 3584 bytes; no machine results (60_exceptions.md R235, 20_memory.md
  R68, log entry 4). Safe: the spec's own stop. -/
  | loadError
  deriving DecidableEq, Repr

/-- Why the model gives no meaning. -/
inductive Refusal
  /-- An instruction with no meaning yet, raised by `exec`'s arm alone; no arm does. Safe. -/
  | notModelled (mnemonic : String)
  /-- `PowerOn` with `FONT_BASE` + 80 above 0x200, which 00_scope.md R7 excludes; raised by `PowerOn` alone (log entry 5). Safe. -/
  | fontBaseOutOfRange
  deriving DecidableEq, Repr

/-- The outcome of an instruction or a transition. -/
abbrev Result := Host.Outcome State Fault Refusal

/-- The state right after `PowerOn` with the documented defaults and an empty image (10_state.md R40, 70_reset_and_hazards.md
R270). DESIGN CHOICE: the defaults and the empty image (log entries 6 and 7), and the last three fields (log entries 1 and 2). -/
def State.reset : State where
  v := Vector.replicate 16 0
  i := 0
  pc := 0x200
  stack := Vector.replicate 16 0
  sp := 0
  dt := 0
  st := 0
  mem := []
  fb := Vector.replicate 32 (Vector.replicate 64 false)
  keys := Vector.replicate 16 false
  run := .running
  waitReg := 0
  hitValid := false
  hitKey := 0
  errCause := none
  errAddr := 0
  errWord := 0
  cfg := defaultCfg
  inputs := []
  rnd := 0
  draws := 0

end Sys2Proof.Machine
end

