-- ==== Sys2Proof/Machine/Ops.lean ====
section
/-! DEFINITION. The named operations over memory, registers, the call stack and the display, and the entry into a fault. An
instruction's meaning runs on a state whose `PC` has been advanced past it (40_step_and_control_flow.md R122). -/

namespace Sys2Proof.Machine

/-! ### Memory (20_memory.md R60 to R62) -/

/-- Address reduction (20_memory.md R60). -/
def phys (a : Nat) : Nat := a % memSize

/-- The byte listed at an address, if one is. -/
def Memory.lookup : Memory → Nat → Option Byte
  | [], _ => none
  | (k, b) :: rest, a => if a = k then some b else Memory.lookup rest a

/-- List a byte at an address, keeping the addresses rising. -/
def Memory.insert (a : Nat) (b : Byte) : Memory → Memory
  | [] => [(a, b)]
  | (k, c) :: rest =>
    if a < k then (a, b) :: (k, c) :: rest
    else if a = k then (a, b) :: rest
    else (k, c) :: Memory.insert a b rest

/-- Take an address off the list. -/
def Memory.erase (a : Nat) : Memory → Memory
  | [] => []
  | (k, c) :: rest => if a = k then rest else (k, c) :: Memory.erase a rest

/-- `MemRead(a, 1)` (20_memory.md R61). -/
def Memory.read (m : Memory) (a : Nat) : Byte := (Memory.lookup m (phys a)).getD (unlistedByte (phys a))

/-- `MemWrite(a, 1, b)` (20_memory.md R62). Writing what an unlisted address reads as takes the address off the list. -/
def Memory.write (m : Memory) (a : Nat) (b : Byte) : Memory :=
  if b = unlistedByte (phys a) then Memory.erase (phys a) m else Memory.insert (phys a) b m

/-- Byte writes at increasing addresses, each reduced on its own (20_memory.md R62). -/
def Memory.writeBytes (m : Memory) (a : Nat) : List Byte → Memory
  | [] => m
  | b :: rest => Memory.writeBytes (Memory.write m a b) (a + 1) rest

/-- `n` byte reads at increasing addresses, each reduced on its own (20_memory.md R66). -/
def Memory.readBytes (m : Memory) (a : Nat) : Nat → List Byte
  | 0 => []
  | n + 1 => Memory.read m a :: Memory.readBytes m (a + 1) n

/-- The canonical form: addresses rising, inside the address space, none listed with the byte it would read as unlisted. -/
abbrev Memory.wf (m : Memory) : Prop :=
  m.Pairwise (fun c d => c.1 < d.1) ∧ ∀ c ∈ m, c.1 < memSize ∧ c.2 ≠ unlistedByte c.1

/-- The byte at an address. -/
def State.readByte (s : State) (a : Nat) : Byte := Memory.read s.mem a

/-- `MemRead(a, 2)`: the byte at the lower address in bits 15 to 8 (20_memory.md R61, R63). -/
def State.readWord (s : State) (a : Nat) : Word := s.readByte a ++ s.readByte (a + 1)

/-- Store bytes at increasing addresses. -/
def State.writeBytes (s : State) (a : Nat) (bytes : List Byte) : State := { s with mem := Memory.writeBytes s.mem a bytes }

/-! ### Registers (00_scope.md R14) -/

/-- `V[r]`. -/
def State.getV (s : State) (r : Reg) : Byte := s.v[r]

/-- `V[r] <- b`. No register is hardwired (10_state.md R21). -/
def State.setV (s : State) (r : Reg) (b : Byte) : State := { s with v := s.v.set r.val b r.isLt }

/-- `I <- w`. -/
def State.setI (s : State) (w : Word) : State := { s with i := w }

/-- `PC <- w`. -/
def State.setPc (s : State) (w : Word) : State := { s with pc := w }

/-- `DT <- b`. -/
def State.setDt (s : State) (b : Byte) : State := { s with dt := b }

/-- `ST <- b`. -/
def State.setSt (s : State) (b : Byte) : State := { s with st := b }

/-- `fb <- d`. -/
def State.setFb (s : State) (d : Display) : State := { s with fb := d }

/-- `skip`: `PC <- (PC + 2) mod 65536` on the advanced `PC` (40_step_and_control_flow.md R135). -/
def State.skip (s : State) : State := s.setPc (s.pc + 2)

/-- `if b then skip`. -/
def State.skipIf (s : State) (b : Bool) : State := if b then s.skip else s

/-! ### The call stack (10_state.md R28, R29) -/

/-- A push: `stack[SP] <- w; SP <- SP + 1`, or `none` when the stack holds 16 entries. -/
def State.push (s : State) (w : Word) : Option State :=
  if h : s.sp.val < 16 then
    some { s with stack := s.stack.set s.sp.val w h, sp := ⟨s.sp.val + 1, by omega⟩ }
  else none

/-- A pop: `SP <- SP - 1`, then the value of `stack[SP]`, which the slot keeps, or `none` when the stack is empty. -/
def State.pop (s : State) : Option (Word × State) :=
  if h : s.sp.val = 0 then none
  else some (s.stack[s.sp.val - 1]'(by omega), { s with sp := ⟨s.sp.val - 1, by omega⟩ })

/-! ### The display buffer (10_state.md R33, 43_display.md R200) -/

/-- `fb[py][px]`, both coordinates reduced modulo the display's size. -/
def Display.pixel (d : Display) (px py : Nat) : Bool :=
  (d[py % 32]'(Nat.mod_lt _ (by decide)))[px % 64]'(Nat.mod_lt _ (by decide))

/-- `fb[py][px] <- fb[py][px] ^ 1`, both coordinates reduced modulo the display's size. -/
def Display.flip (d : Display) (px py : Nat) : Display :=
  d.set (py % 32) ((d[py % 32]'(Nat.mod_lt _ (by decide))).set (px % 64) (!d.pixel px py) (Nat.mod_lt _ (by decide)))
    (Nat.mod_lt _ (by decide))

/-- A display with every pixel unset. -/
def Display.blank : Display := Vector.replicate 32 (Vector.replicate 64 false)

/-! ### Faults (60_exceptions.md R230 to R233) -/

/-- The fault's code in `err_cause` (60_exceptions.md R230). -/
def FaultKind.code : FaultKind → BitVec 3
  | .unknownOpcode => 1
  | .stackOverflow => 2
  | .stackUnderflow => 3
  | .outOfRangeJump => 4

/-- `err_cause` as the spec numbers it, 0 for none. -/
def errCode : Option FaultKind → BitVec 3
  | none => 0
  | some k => k.code

/-- `raise F(kind)` for the instruction word `w` (60_exceptions.md R232): the halt record and the halted state, nothing else.
The faulting address `a` is `PC - 2`, since `PC` has been advanced (R231). There is no return from a fault (R242). -/
def State.raise (s : State) (kind : FaultKind) (w : Word) : State :=
  { s with errCause := some kind, errAddr := s.pc - 2, errWord := w, run := .halted }

/-! ### The key wait (45_keypad_instructions.md R222, R223) -/

/-- `begin_wait(x)`. -/
def State.beginWait (s : State) (x : Reg) : State := { s with waitReg := x, hitValid := false, run := .waitKey }

/-- The wait is satisfied: the latched key goes to the remembered register and the machine runs on. -/
def State.endWait (s : State) : State :=
  { s.setV s.waitReg (BitVec.ofNat 8 s.hitKey.val) with hitValid := false, run := .running }

end Sys2Proof.Machine
end

