-- ==== Sys2Proof/Machine/Operands.lean ====
section
/-! DEFINITION. The operand forms: the low nibble of a register as a key number or a font digit, the source of a shift, the offset
of a jump, the target check, and the bytes a store writes. -/

namespace Sys2Proof.Machine

/-- `V[x][3:0]`, a key number or a font digit (45_keypad_instructions.md R224, 42_index_and_memory.md R183). -/
def State.lowNibble (s : State) (x : Reg) : Fin 16 := ((s.getV x).extractLsb' 0 4).toFin

/-- `src` of `SHR` and `SHL` (41_load_arith_logic.md R160). -/
def State.shiftSource (s : State) (x y : Reg) : Byte :=
  match s.cfg.shiftQuirk with
  | .vxOnly => s.getV x
  | .vyToVx => s.getV y

/-- The top nibble of the literal of Bnnn, read as a register number (40_step_and_control_flow.md R130). -/
def topNibble (nnn : Addr) : Reg := (nnn.extractLsb' 8 4).toFin

/-- The target of opcode Bnnn: `nnn + V[r]`, an integer that is not reduced (40_step_and_control_flow.md R130). -/
def State.offsetTarget (s : State) (nnn : Addr) : Nat :=
  match s.cfg.jumpQuirk with
  | .v0 => nnn.toNat + (s.getV 0).toNat
  | .vx => nnn.toNat + (s.getV (topNibble nnn)).toNat

/-- `valid_target(t)` (40_step_and_control_flow.md R129). -/
def validTarget (t : Nat) : Bool := decide (t ≤ 0xFFF) && t % 2 == 0

/-- The three decimal digits of a byte, most significant first (42_index_and_memory.md R185). -/
def decimalDigits (b : Byte) : List Byte :=
  [BitVec.ofNat 8 (b.toNat / 100), BitVec.ofNat 8 (b.toNat / 10 % 10), BitVec.ofNat 8 (b.toNat % 10)]

/-- `V[0]` to `V[x]` inclusive (42_index_and_memory.md R186). -/
def State.regsUpTo (s : State) (x : Reg) : List Byte := s.v.toList.take (x.val + 1)

/-- The effective address of the `k`-th byte of a data access, before reduction (42_index_and_memory.md R180). -/
def State.dataAddr (s : State) (k : Nat) : Nat := s.i.toNat + k

end Sys2Proof.Machine
end

