-- ==== Sys2Proof/Machine/ControlFlow.lean ====
section
/-! DEFINITION. The control-flow instructions (40_step_and_control_flow.md). A fault is a next state: the halted machine with its
record (60_exceptions.md R232). Every check comes before the first write (R123). -/

namespace Sys2Proof.Machine

/-- `PC <- t` for a valid target, else `OutOfRangeJump` for the word `w` (R129). -/
def jumpTo (t : Nat) (w : Word) (s : State) : State :=
  if validTarget t then s.setPc (BitVec.ofNat 16 t) else s.raise .outOfRangeJump w

/-- `SYS nnn`: the advance of `PC` is the only effect (R125). -/
def execSys (_nnn : Addr) (s : State) : Result := .next s

/-- `RET` (R126): the popped value is not validated. -/
def execRet (s : State) : Result :=
  match s.pop with
  | none => .next (s.raise .stackUnderflow (encode .ret))
  | some (w, s') => .next (s'.setPc w)

/-- `JP nnn` (R127). -/
def execJp (nnn : Addr) (s : State) : Result := .next (jumpTo nnn.toNat (encode (.jp nnn)) s)

/-- `CALL nnn` (R128): the target is checked first, then the stack. -/
def execCall (nnn : Addr) (s : State) : Result :=
  if validTarget nnn.toNat then
    match s.push s.pc with
    | none => .next (s.raise .stackOverflow (encode (.call nnn)))
    | some s' => .next (s'.setPc (BitVec.ofNat 16 nnn.toNat))
  else .next (s.raise .outOfRangeJump (encode (.call nnn)))

/-- `JP V0, nnn`, or `JP Vx, xkk` under `JUMP_QUIRK` = `VX` (R130). -/
def execJpV0 (nnn : Addr) (s : State) : Result := .next (jumpTo (s.offsetTarget nnn) (encode (.jpV0 nnn)) s)

/-- `SE Vx, kk` (R131). -/
def execSeImm (x : Reg) (kk : Byte) (s : State) : Result := .next (s.skipIf (s.getV x == kk))

/-- `SNE Vx, kk` (R132). -/
def execSneImm (x : Reg) (kk : Byte) (s : State) : Result := .next (s.skipIf (s.getV x != kk))

/-- `SE Vx, Vy` (R133). -/
def execSeReg (x y : Reg) (s : State) : Result := .next (s.skipIf (s.getV x == s.getV y))

/-- `SNE Vx, Vy` (R134). -/
def execSneReg (x y : Reg) (s : State) : Result := .next (s.skipIf (s.getV x != s.getV y))

end Sys2Proof.Machine
end

