-- ==== Sys2Proof/Machine/Flags.lean ====
section
/-! DEFINITION. The flag computations: VF is the only flag, a whole register that takes 0 or 1 (10_state.md R22). -/

namespace Sys2Proof.Machine

/-- A flag as the 8-bit value VF takes. -/
def flagByte (f : Bool) : Byte := if f then 1 else 0

/-- Carry out of the 8-bit sum (41_load_arith_logic.md R158). -/
def carry (a b : Byte) : Bool := decide (a.toNat + b.toNat > 255)

/-- No borrow in `a - b` (41_load_arith_logic.md R159, R162). -/
def noBorrow (a b : Byte) : Bool := decide (a.toNat ≥ b.toNat)

/-- The bit a right shift by one puts out (41_load_arith_logic.md R161). -/
def shiftedOutRight (a : Byte) : Bool := a.getLsbD 0

/-- The bit a left shift by one puts out (41_load_arith_logic.md R163). -/
def shiftedOutLeft (a : Byte) : Bool := a.getLsbD 7

/-- `V[x] <- result`, and after that `V[15] <- f` (41_load_arith_logic.md R151). -/
def State.setResultFlag (s : State) (x : Reg) (result : Byte) (f : Bool) : State :=
  (s.setV x result).setV VF (flagByte f)

end Sys2Proof.Machine
end

