-- ==== Sys2Proof/Machine/Display.lean ====
section
/-! DEFINITION. The display instructions and the sprite blit (43_display.md). Neither faults. -/

namespace Sys2Proof.Machine

/-- The display while a sprite is drawn, and whether a pixel has gone from set to unset (R202). -/
structure Blit where
  fb : Display
  coll : Bool
  deriving DecidableEq, Repr

/-- One set sprite bit: the pixel is flipped, and a pixel that was set is a collision (R202). -/
def blitPixel (px py : Nat) (b : Blit) : Blit := { fb := b.fb.flip px py, coll := b.coll || b.fb.pixel px py }

/-- One sprite byte: bit 7 is the leftmost of its 8 pixels (R202). -/
def blitRow (cx py : Nat) (row : Byte) (b : Blit) : Blit :=
  (List.range 8).foldl (fun b c => if row.getLsbD (7 - c) then blitPixel (cx + c) py b else b) b

/-- The sprite's bytes, one row below the other (R202). -/
def blitRows (cx cy : Nat) : List Byte → Blit → Blit
  | [], b => b
  | row :: rest, b => blitRows cx (cy + 1) rest (blitRow cx cy row b)

/-- `draw(x, y, sprite_rows) -> collided` (R205). -/
def Display.draw (d : Display) (cx cy : Nat) (rows : List Byte) : Blit := blitRows cx cy rows { fb := d, coll := false }

/-- The sprite `DRW` reads: `n` bytes from `I` (R202). -/
def State.sprite (s : State) (n : Nat) : List Byte := Memory.readBytes s.mem (s.dataAddr 0) n

/-- `CLS` (R201). -/
def execCls (s : State) : Result := .next (s.setFb Display.blank)

/-- `DRW Vx, Vy, n` (R202, R203): the coordinates are read before VF is written. -/
def execDrw (x y : Reg) (n : Fin 16) (s : State) : Result :=
  let b := s.fb.draw (s.getV x).toNat (s.getV y).toNat (s.sprite n.val)
  .next ((s.setFb b.fb).setV VF (flagByte b.coll))

end Sys2Proof.Machine
end

