-- ==== Sys2Proof/Machine/IndexMemory.lean ====
section
/-! DEFINITION. Index-register and memory instructions (42_index_and_memory.md). None faults; `I` is left unchanged by the loads and
stores (R184). -/

namespace Sys2Proof.Machine

/-- `LD I, nnn` (R181). -/
def execLdI (nnn : Addr) (s : State) : Result := .next (s.setI (nnn.setWidth 16))

/-- `ADD I, Vx` (R182): modulo 65536, VF is not written. -/
def execAddI (x : Reg) (s : State) : Result := .next (s.setI (s.i + (s.getV x).setWidth 16))

/-- `LD F, Vx` (R183). -/
def execLdF (x : Reg) (s : State) : Result :=
  .next (s.setI (BitVec.ofNat 16 (s.cfg.fontBase.toNat + 5 * (s.lowNibble x).val)))

/-- `LD B, Vx` (R185). -/
def execLdB (x : Reg) (s : State) : Result := .next (s.writeBytes (s.dataAddr 0) (decimalDigits (s.getV x)))

/-- `LD [I], Vx` (R186). -/
def execStRegs (x : Reg) (s : State) : Result := .next (s.writeBytes (s.dataAddr 0) (s.regsUpTo x))

/-- `LD Vx, [I]` (R187): the order of the loads is not observable, so all registers are loaded at once. -/
def execLdRegs (x : Reg) (s : State) : Result :=
  .next { s with v := Vector.ofFn fun r : Fin 16 => if r ≤ x then s.readByte (s.dataAddr r.val) else s.getV r }

end Sys2Proof.Machine
end

