-- ==== Sys2Proof/Machine/Keypad.lean ====
section
/-! DEFINITION. The keypad instructions (45_keypad_instructions.md). None faults. -/

namespace Sys2Proof.Machine

/-- `SKP Vx` (R220). -/
def execSkp (x : Reg) (s : State) : Result := .next (s.skipIf s.keys[s.lowNibble x])

/-- `SKNP Vx` (R221). -/
def execSknp (x : Reg) (s : State) : Result := .next (s.skipIf (!s.keys[s.lowNibble x]))

/-- `LD Vx, K`, the issue (R222). Its completion is `pollWait` of Machine/Cycle.lean (R223). -/
def execLdVxK (x : Reg) (s : State) : Result := .next (s.beginWait x)

end Sys2Proof.Machine
end

