-- ==== Sys2Proof/Machine/LoadArith.lean ====
section
/-! DEFINITION. Register load, arithmetic, logic, shift and random instructions (41_load_arith_logic.md). None faults. -/

namespace Sys2Proof.Machine

/-- `LD Vx, kk` (R152). -/
def execLdImm (x : Reg) (kk : Byte) (s : State) : Result := .next (s.setV x kk)

/-- `ADD Vx, kk` (R153): VF is not written. -/
def execAddImm (x : Reg) (kk : Byte) (s : State) : Result := .next (s.setV x (s.getV x + kk))

/-- `LD Vx, Vy` (R154). -/
def execLdReg (x y : Reg) (s : State) : Result := .next (s.setV x (s.getV y))

/-- `OR Vx, Vy` (R155). -/
def execOrReg (x y : Reg) (s : State) : Result := .next (s.setV x (s.getV x ||| s.getV y))

/-- `AND Vx, Vy` (R156). -/
def execAndReg (x y : Reg) (s : State) : Result := .next (s.setV x (s.getV x &&& s.getV y))

/-- `XOR Vx, Vy` (R157). -/
def execXorReg (x y : Reg) (s : State) : Result := .next (s.setV x (s.getV x ^^^ s.getV y))

/-- `ADD Vx, Vy` (R158). -/
def execAddReg (x y : Reg) (s : State) : Result :=
  .next (s.setResultFlag x (s.getV x + s.getV y) (carry (s.getV x) (s.getV y)))

/-- `SUB Vx, Vy` (R159). -/
def execSub (x y : Reg) (s : State) : Result :=
  .next (s.setResultFlag x (s.getV x - s.getV y) (noBorrow (s.getV x) (s.getV y)))

/-- `SUBN Vx, Vy` (R162). -/
def execSubn (x y : Reg) (s : State) : Result :=
  .next (s.setResultFlag x (s.getV y - s.getV x) (noBorrow (s.getV y) (s.getV x)))

/-- `SHR Vx {, Vy}` (R161). -/
def execShr (x y : Reg) (s : State) : Result :=
  .next (s.setResultFlag x (s.shiftSource x y >>> 1) (shiftedOutRight (s.shiftSource x y)))

/-- `SHL Vx {, Vy}` (R163). -/
def execShl (x y : Reg) (s : State) : Result :=
  .next (s.setResultFlag x (s.shiftSource x y <<< 1) (shiftedOutLeft (s.shiftSource x y)))

/-- `RND Vx, kk` (R170): the draw is the one this `Step` was given. -/
def execRnd (x : Reg) (kk : Byte) (s : State) : Result := .next (s.setV x (s.rnd &&& kk))

end Sys2Proof.Machine
end

