-- ==== Sys2Proof/Machine/Timers.lean ====
section
/-! DEFINITION. The timer instructions (44_timer_instructions.md). None faults. -/

namespace Sys2Proof.Machine

/-- `LD Vx, DT` (R210). -/
def execLdVxDt (x : Reg) (s : State) : Result := .next (s.setV x s.dt)

/-- `LD DT, Vx` (R211). -/
def execLdDtVx (x : Reg) (s : State) : Result := .next (s.setDt (s.getV x))

/-- `LD ST, Vx` (R212). -/
def execLdStVx (x : Reg) (s : State) : Result := .next (s.setSt (s.getV x))

end Sys2Proof.Machine
end

