-- ==== Sys2Proof/Machine/Cycle.lean ====
section
/-! DEFINITION. The transition `Step(rnd)`: fetch, advance, decode, execute, or the poll of a key wait (40_step_and_control_flow.md R120
to R123). -/

namespace Sys2Proof.Machine

/-- Fetch: the big-endian word at `PC` (R121). -/
def State.fetchWord (s : State) : Word := s.readWord s.pc.toNat

/-- Advance: `PC <- (PC + 2) mod 65536` (R122), with the draw of this step in place. -/
def State.advance (s : State) (rnd : Byte) : State := { s with pc := s.pc + 2, rnd := rnd }

/-- Decode and execute; a word that matches no row raises `UnknownOpcode` (R123). -/
def executeWord (w : Word) (s : State) : Result :=
  match decode w with
  | .ok i => exec i s
  | .error _ => .next (s.raise .unknownOpcode w)

/-- `poll_wait()`: a step during the key wait (45_keypad_instructions.md R223). -/
def State.pollWait (s : State) : State := if s.hitValid then s.endWait else s

/-- `Step(rnd)` by run state (R120). -/
def cpuStep (rnd : Byte) (s : State) : Result :=
  match s.run with
  | .halted => .next s
  | .waitKey => .next s.pollWait
  | .running => executeWord s.fetchWord (s.advance rnd)

end Sys2Proof.Machine
end

