-- ==== Sys2Proof/Machine/Events.lean ====
section
/-! DEFINITION. The transitions of the host that are not steps: `TimerTick`, `KeyEvent` (60_exceptions.md R245, R248) and `PowerOn`
(70_reset_and_hazards.md R270). The first two act alike in every run state (R243). -/

namespace Sys2Proof.Machine

/-- A counter's tick: down by one, floored at 0 (60_exceptions.md R245). -/
def countDown (b : Byte) : Byte := if b = 0 then 0 else b - 1

/-- `TimerTick` (60_exceptions.md R245). -/
def State.timerTick (s : State) : State := { s with dt := countDown s.dt, st := countDown s.st }

/-- A key-press edge that a wait takes: the first one since the wait began (60_exceptions.md R248). -/
def State.latches (s : State) (k : Key) (pressed : Bool) : Bool :=
  s.run == .waitKey && pressed && !s.keys[k] && !s.hitValid

/-- `KeyEvent(k, p)` (60_exceptions.md R248). -/
def State.keyEvent (s : State) (k : Key) (pressed : Bool) : State :=
  let s' := { s with keys := s.keys.set k.val pressed k.isLt }
  if s.latches k pressed then { s' with hitKey := k, hitValid := true } else s'

/-- Memory with `FILL` at every address: the font is written over, every other address holds `FILL` unlisted (70_reset_and_hazards.md
R270). -/
def Memory.filled : Memory :=
  Memory.writeBytes [] defaultCfg.fontBase.toNat (List.replicate fontBytes.length fill)

/-- Memory after power-on: `FILL`, then the font, then the image (70_reset_and_hazards.md R270). -/
def loadedMemory (cfg : Cfg) (rom : List Byte) : Memory :=
  Memory.writeBytes (Memory.writeBytes Memory.filled cfg.fontBase.toNat fontBytes) romBase rom

/-- The machine after power-on; the host's own side is carried over (log entry 16). -/
def State.poweredOn (s : State) (cfg : Cfg) (rom : List Byte) : State :=
  { State.reset with cfg := cfg, mem := loadedMemory cfg rom, inputs := s.inputs, rnd := s.rnd, draws := s.draws }

/-- `PowerOn(cfg, rom)` at any time, in any run state (70_reset_and_hazards.md R270, R271). -/
def powerOn (cfg : Cfg) (rom : List Byte) (s : State) : Result :=
  if rom.length > romMax then .fault .loadError
  else if cfg.wf then .next (s.poweredOn cfg rom)
  else .refused .fontBaseOutOfRange

end Sys2Proof.Machine
end

