-- ==== Sys2Proof/Machine/Transitions.lean ====
section
/-! DEFINITION. The four transitions as one function of the host's input, and which input comes next (00_scope.md R9, log entry 1). -/

namespace Sys2Proof.Machine

/-- The host's next input, and the state without it. When none is listed the host issues a `Step` with a free draw (log entries 1
and 2). -/
def State.takeInput (s : State) : Input × State :=
  match s.inputs with
  | [] => (.step (Config.freeDraw s.draws), { s with draws := s.draws + 1 })
  | e :: rest => (e, { s with inputs := rest })

/-- One transition (00_scope.md R9). -/
def transition (e : Input) (s : State) : Result :=
  match e with
  | .step rnd => cpuStep rnd s
  | .timerTick => .next s.timerTick
  | .keyEvent k pressed => .next (s.keyEvent k pressed)
  | .powerOn cfg rom => powerOn cfg rom s

/-- The two bytes of a table word in the order memory holds them (20_memory.md R63). -/
def tableWordBytes (nbits w : Nat) : List Byte :=
  [BitVec.ofNat 8 (w % 2 ^ nbits / 256), BitVec.ofNat 8 (w % 2 ^ nbits)]

/-- The state with a word where the next step fetches, about to run it: no other input is due and the machine is `RUNNING`. -/
def State.placeWord (s : State) (nbits w : Nat) : State :=
  { s.writeBytes s.pc.toNat (tableWordBytes nbits w) with run := .running, inputs := [] }

end Sys2Proof.Machine
end

