-- ==== Sys2Proof/Machine/Step.lean ====
section
/-! DEFINITION. One step of the machine: the next of the host's transitions. -/

namespace Sys2Proof.Machine

/-- One step: the host's next input is taken and performed (00_scope.md R9, log entry 1). -/
def step (s : State) : Host.Outcome State Fault Refusal := transition s.takeInput.1 s.takeInput.2

/-- The host's question: `s` with an instruction's word stored where `step` fetches its next instruction (log entry 7). -/
def State.withFetchWord (s : State) (nbits w : Nat) : State := s.placeWord nbits w

end Sys2Proof.Machine
end

