-- ==== Sys2Proof/Machine/Queries.lean ====
section
/-! DEFINITION. What the host can see: the three queries (60_exceptions.md R250 to R252), the result of a step, which is a function of
the new state (40_step_and_control_flow.md R124), and the frame of the reference driver (70_reset_and_hazards.md R285). -/

namespace Sys2Proof.Machine

/-- `pixel_at(x, y)` (60_exceptions.md R250). -/
def State.pixelAt (s : State) (x : Fin 64) (y : Fin 32) : Bool := s.fb.pixel x.val y.val

/-- `sound_active()` (60_exceptions.md R251). -/
def State.soundActive (s : State) : Bool := decide (s.st.toNat > 0)

/-- What `status()` returns. -/
structure Status where
  run : RunState
  errCause : BitVec 3
  errAddr : Word
  errWord : Word
  pc : Word
  deriving DecidableEq, Repr

/-- `status()` (60_exceptions.md R252). -/
def State.status (s : State) : Status :=
  { run := s.run, errCause := errCode s.errCause, errAddr := s.errAddr, errWord := s.errWord, pc := s.pc }

/-- What a `Step` reports (40_step_and_control_flow.md R124). -/
inductive StepResult
  | completed
  | waiting
  /-- `Fault(kind)`, the kind recorded in `err_cause`. -/
  | fault (cause : Option FaultKind)
  deriving DecidableEq, Repr

/-- The report of the step that led to this state (40_step_and_control_flow.md R124). -/
def State.stepResult (s : State) : StepResult :=
  match s.run with
  | .running => .completed
  | .waitKey => .waiting
  | .halted => .fault s.errCause

/-- One frame of the reference driver: the steps (one draw each), one tick, the key events (70_reset_and_hazards.md R285). The machine
does not depend on it. -/
def referenceFrame (stepDraws : List Byte) (keyEvents : List (Key × Bool)) : List Input :=
  stepDraws.map Input.step ++ [.timerTick] ++ keyEvents.map fun e => .keyEvent e.1 e.2

end Sys2Proof.Machine
end

