-- ==== Sys2Proof/Safety.lean ====
section
/-! DEFINITION. What counts as a safe run, and the invariant of the machine (10_state.md R39). -/

namespace Sys2Proof.Machine

/-- The invariant of 10_state.md R39 (a), (d), (e), (f), the canonical form of memory, and the legal font address of 00_scope.md R7.
R39 (b) is carried by the type of `sp`. -/
structure Inv (s : State) : Prop where
  /-- (a) `PC` is even. -/
  pcEven : s.pc.toNat % 2 = 0
  /-- (d) the latch is set only during a wait. -/
  latchWaits : s.hitValid = true → s.run = .waitKey
  /-- (e) a cause is recorded exactly when the machine is halted. -/
  causeHalted : s.errCause.isSome = true ↔ s.run = .halted
  /-- (f) every live return address is even. -/
  stackEven : ∀ k : Fin 16, k.val < s.sp.val → s.stack[k].toNat % 2 = 0
  /-- Memory is in canonical form (log entry 9). -/
  memWf : Memory.wf s.mem
  /-- The font lies below the program. -/
  cfgWf : s.cfg.wf

/-- No fatal fault has been raised; `HALTED` is never a final state (70_reset_and_hazards.md R287). -/
abbrev State.safe (s : State) : Prop := s.run ≠ .halted

/-- The customary end of a program: running, at a `JP` to its own address (70_reset_and_hazards.md R287). -/
abbrev State.atFinalLoop (s : State) : Prop :=
  s.run = .running ∧ ∃ nnn : Addr, decode s.fetchWord = .ok (.jp nnn) ∧ s.pc.toNat = nnn.toNat

/-- `n` steps, stopping at the first that answers no next state: the host's `run` of this machine (`core_run` of
Laws/Operations.lean). -/
def runFor : Nat → State → Result
  | 0, s => .next s
  | n + 1, s =>
    match step s with
    | .next t => runFor n t
    | .fault f => .fault f
    | .refused r => .refused r

/-- A run of `n` steps stays safe. -/
abbrev safeFor (n : Nat) (s : State) : Prop := ∀ k ≤ n, ∀ t, runFor k s = .next t → t.safe

end Sys2Proof.Machine
end

