-- ==== Sys2Proof/Certificates/Slice0/Obligations.lean ====
section
/-! DEFINITION. The statements for the provers. In a statement about `exec` the state is the one a step hands to an instruction: `PC`
is already past it (40_step_and_control_flow.md R122). An equation `t = { s with f := t.f }` is a whole frame: every field but the
named ones is as before, every byte of memory among them. "D<n>" in a docstring names a decision of the spec
(92_eei_decisions.md) on which the statement rests besides the rule. -/

open Sys2Proof Sys2Proof.Machine

/-! ### Encoding -/

/-- Words written out in the spec decode to the instructions they stand for (30_encoding.md R112, 95_test_vectors.md). -/
def Obligations.SpecExampleWordsDecode : Prop :=
  decode 0x6005 = .ok (.ldImm 0 0x05) ∧ decode 0x7003 = .ok (.addImm 0 0x03) ∧ decode 0xA300 = .ok (.ldI 0x300) ∧
  decode 0xD005 = .ok (.drw 0 0 5) ∧ decode 0x00E0 = .ok .cls ∧ decode 0x1200 = .ok (.jp 0x200) ∧
  decode 0x8124 = .ok (.addReg 1 2) ∧ decode 0xF30A = .ok (.ldVxK 3) ∧ decode 0xF155 = .ok (.stRegs 1) ∧
  decode 0xE2A1 = .ok (.sknp 2) ∧ decode 0x00FD = .ok (.sys 0x0FD) ∧ decode 0x5121 = .error (.unknownOpcode 0x5121)

/-- Decoding the word of a well-formed instruction gives the instruction back, every operand at every value (30_encoding.md R94,
R95). -/
def Obligations.DecodeOfEncode : Prop := ∀ i : Instr, i.wf = true → decode (encode i) = .ok i

/-- A word that decodes is the word of the instruction it decodes to, and that instruction is well formed: no two words have one
instruction (30_encoding.md R94, R95). -/
def Obligations.EncodeOfDecode : Prop := ∀ (w : Word) (i : Instr), decode w = .ok i → i.wf = true ∧ encode i = w

/-- The decoder selects the first row of the opcode map whose mask and pattern match the word, in the order of opcode_table.json, and
gives `UnknownOpcode` when none does (30_encoding.md R95, R96). -/
def Obligations.DecodeFollowsOpcodeMap : Prop :=
  ∀ w : Word, decode w =
    match opcodeMap.find? (fun r => w &&& r.mask == r.pattern) with
    | some r => .ok (r.build w)
    | none => .error (.unknownOpcode w)

/-- The illegal words are exactly those of the five classes of 30_encoding.md R96. D15: that 5xyN and 9xyN with N ≠ 0 are among
them. -/
def Obligations.IllegalWordsAreTheListedClasses : Prop :=
  ∀ w : Word, (∃ e, decode w = .error e) ↔
    ((w.toNat / 4096 = 0x5 ∧ w.toNat % 16 ≠ 0) ∨
     (w.toNat / 4096 = 0x8 ∧ w.toNat % 16 ∈ [0x8, 0x9, 0xA, 0xB, 0xC, 0xD, 0xF]) ∨
     (w.toNat / 4096 = 0x9 ∧ w.toNat % 16 ≠ 0) ∨
     (w.toNat / 4096 = 0xE ∧ w.toNat % 256 ∉ [0x9E, 0xA1]) ∨
     (w.toNat / 4096 = 0xF ∧ w.toNat % 256 ∉ [0x07, 0x0A, 0x15, 0x18, 0x1E, 0x29, 0x33, 0x55, 0x65]))

/-! ### The step -/

/-- A step of the model performs the host's next transition, or, when none is listed, a `Step` with a free draw, and takes it off
the list (00_scope.md R9; the list, the `Step` and the draw are the model's choice, log entries 1 and 2). -/
def Obligations.StepPerformsNextInput : Prop :=
  ∀ s : State,
    (∀ e rest, s.inputs = e :: rest → step s = transition e { s with inputs := rest }) ∧
    (s.inputs = [] → step s = transition (.step (Config.freeDraw s.draws)) { s with draws := s.draws + 1 })

/-- A step in `RUNNING` whose fetched word decodes runs that instruction, on the state with `PC` advanced by 2 and the draw in place:
the draw of the host's `step` input, or a free draw when no input is listed (40_step_and_control_flow.md R120 to R123). The list
of inputs and the free draw are the model's own (log entries 1 and 2). -/
def Obligations.StepRunsDecodedInstruction : Prop :=
  ∀ (s : State) (i : Instr), s.run = .running → decode s.fetchWord = .ok i →
    (∀ rnd rest, s.inputs = .step rnd :: rest → step s = exec i { s with inputs := rest, pc := s.pc + 2, rnd := rnd }) ∧
    (s.inputs = [] →
      step s = exec i { s with draws := s.draws + 1, pc := s.pc + 2, rnd := Config.freeDraw s.draws })

/-- A step in `RUNNING` whose word matches no row halts the machine with `UnknownOpcode`, the word's address and the word; `PC` stays
advanced and nothing else changes (30_encoding.md R96, 60_exceptions.md R231, R232). -/
def Obligations.IllegalWordHaltsWithRecord : Prop :=
  ∀ (s : State) (rnd : Byte) (e : DecodeError), s.run = .running → decode s.fetchWord = .error e →
    cpuStep rnd s = .next { s with
      pc := s.pc + 2, rnd := rnd, errCause := some .unknownOpcode, errAddr := s.pc, errWord := s.fetchWord, run := .halted }

/-- Fault entry. When a step that ran an instruction leaves the machine halted, it has recorded the cause, the address the
instruction was fetched from and the word fetched; `PC` is the advanced one; nothing else has changed; the step reports the
fault, and `status()` shows the record with the cause as its code: 1 `UnknownOpcode`, 2 `StackOverflow`, 3 `StackUnderflow`, 4
`OutOfRangeJump` (60_exceptions.md R230, R231, R232, R252). D17, D18: that nothing else is written, the codes and `status()`. -/
def Obligations.FaultEntryIsPrecise : Prop :=
  ∀ (s t : State) (rnd : Byte), s.run = .running → cpuStep rnd s = .next t → t.run = .halted →
    ∃ kind : FaultKind,
      t = { s with
        pc := s.pc + 2, rnd := rnd, errCause := some kind, errAddr := s.pc, errWord := s.fetchWord, run := .halted } ∧
      t.errAddr = t.pc - 2 ∧ t.stepResult = .fault (some kind) ∧
      t.status.run = .halted ∧ t.status.errAddr = s.pc ∧ t.status.errWord = s.fetchWord ∧ t.status.pc = s.pc + 2 ∧
      (kind = .unknownOpcode → t.status.errCause = 1) ∧ (kind = .stackOverflow → t.status.errCause = 2) ∧
      (kind = .stackUnderflow → t.status.errCause = 3) ∧ (kind = .outOfRangeJump → t.status.errCause = 4)

/-- In `HALTED` a step changes nothing and reports the recorded fault (40_step_and_control_flow.md R120 (1), 60_exceptions.md R242).
D19: that it reports it again. -/
def Obligations.HaltedStepChangesNothing : Prop :=
  ∀ (s : State) (rnd : Byte), s.run = .halted → cpuStep rnd s = .next s ∧ s.stepResult = .fault s.errCause

/-- The word fetched is the big-endian word at `PC`, each byte's address reduced modulo 4096 (40_step_and_control_flow.md R121). -/
def Obligations.FetchReadsBigEndianWord : Prop :=
  ∀ s : State, s.fetchWord.toNat =
    (s.readByte (s.pc.toNat % 4096)).toNat * 256 + (s.readByte ((s.pc.toNat + 1) % 4096)).toNat

/-! ### The invariant -/

/-- Every step keeps the invariant of 10_state.md R39 (a), (d), (e), (f), with memory in canonical form and the font below the
program; (b) holds by the type of `sp`, (c) is `FlagIsZeroOrOne`. The canonical form is the model's (log entry 9). -/
def Obligations.StepKeepsInvariant : Prop := ∀ s t : State, Inv s → step s = .next t → Inv t

/-- The invariant holds right after reset. -/
def Obligations.ResetMeetsInvariant : Prop := Inv State.reset

/-! ### Control flow -/

/-- The four compare-and-skip instructions: `PC` goes two further when the condition holds, and nothing else changes
(40_step_and_control_flow.md R131 to R135). -/
def Obligations.CompareSkips : Prop :=
  ∀ (s : State) (x y : Reg) (kk : Byte),
    exec (.seImm x kk) s = .next { s with pc := if s.v[x] = kk then s.pc + 2 else s.pc } ∧
    exec (.sneImm x kk) s = .next { s with pc := if s.v[x] ≠ kk then s.pc + 2 else s.pc } ∧
    exec (.seReg x y) s = .next { s with pc := if s.v[x] = s.v[y] then s.pc + 2 else s.pc } ∧
    exec (.sneReg x y) s = .next { s with pc := if s.v[x] ≠ s.v[y] then s.pc + 2 else s.pc }

/-- `SKP` and `SKNP` skip on the level of the key the register's low nibble names (45_keypad_instructions.md R220, R221). D21: that
the upper nibble is ignored. -/
def Obligations.KeySkipsTestTheLevel : Prop :=
  ∀ (s : State) (x : Reg) (k : Key), k.val = s.v[x].toNat % 16 →
    exec (.skp x) s = .next { s with pc := if s.keys[k] = true then s.pc + 2 else s.pc } ∧
    exec (.sknp x) s = .next { s with pc := if s.keys[k] = false then s.pc + 2 else s.pc }

/-- `SYS nnn` does nothing beyond the advance of `PC` (40_step_and_control_flow.md R125). D14: that it does nothing. -/
def Obligations.SysDoesNothing : Prop := ∀ (s : State) (nnn : Addr), exec (.sys nnn) s = .next s

/-- `JP nnn` to an even address goes there, the upper four bits of `PC` being 0; nothing else changes
(40_step_and_control_flow.md R127). -/
def Obligations.JumpGoesToEvenAddress : Prop :=
  ∀ (s : State) (nnn : Addr), nnn.toNat % 2 = 0 →
    ∃ t, exec (.jp nnn) s = .next t ∧ t.pc.toNat = nnn.toNat ∧ t = { s with pc := t.pc }

/-- `CALL nnn` to an even address with a slot free pushes the advanced `PC` into `stack[SP]`, counts it and goes to the address
(40_step_and_control_flow.md R128). -/
def Obligations.CallPushesReturnAddress : Prop :=
  ∀ (s : State) (nnn : Addr), nnn.toNat % 2 = 0 → s.sp.val < 16 →
    ∃ t, exec (.call nnn) s = .next t ∧ t.pc.toNat = nnn.toNat ∧ t.sp.val = s.sp.val + 1 ∧
      (∀ k : Fin 16, t.stack[k] = if k.val = s.sp.val then s.pc else s.stack[k]) ∧
      t = { s with pc := t.pc, stack := t.stack, sp := t.sp }

/-- `RET` with a return address on the stack goes to the most recent one, which its slot keeps (40_step_and_control_flow.md R126).
D31: that the value popped is not validated. -/
def Obligations.ReturnPopsMostRecentAddress : Prop :=
  ∀ (s : State) (k : Fin 16), s.sp.val = k.val + 1 →
    ∃ t, exec .ret s = .next t ∧ t.pc = s.stack[k] ∧ t.sp.val = k.val ∧ t = { s with pc := t.pc, sp := t.sp }

/-- A `CALL` that succeeds and a `RET` right after it: the machine is back behind the `CALL` with the stack at its old height, and
only the slot the `CALL` used may differ (40_step_and_control_flow.md R126, R128). -/
def Obligations.ReturnUndoesCall : Prop :=
  ∀ (s : State) (nnn : Addr), nnn.toNat % 2 = 0 → s.sp.val < 16 →
    ∃ t u, exec (.call nnn) s = .next t ∧ exec .ret t = .next u ∧ u.pc = s.pc ∧ u.sp = s.sp ∧
      (∀ k : Fin 16, k.val ≠ s.sp.val → u.stack[k] = s.stack[k]) ∧ u = { s with stack := u.stack }

/-- Opcode Bnnn under either selector, when `nnn` plus the offset register is even and at most 0xFFF: it goes to the sum
(40_step_and_control_flow.md R130). D9: the two formulas. -/
def Obligations.OffsetJumpAddsSelectedRegister : Prop :=
  ∀ (s : State) (nnn : Addr) (r : Reg),
    (s.cfg.jumpQuirk = .v0 → r = 0) → (s.cfg.jumpQuirk = .vx → r.val = nnn.toNat / 256) →
    nnn.toNat + s.v[r].toNat ≤ 0xFFF → (nnn.toNat + s.v[r].toNat) % 2 = 0 →
    ∃ t, exec (.jpV0 nnn) s = .next t ∧ t.pc.toNat = nnn.toNat + s.v[r].toNat ∧ t = { s with pc := t.pc }

/-- The faults of the control-flow instructions: an odd target of `JP` or `CALL` (of `CALL` also when the stack is full), a full
stack, an empty stack, and a sum of opcode Bnnn that is odd or above 0xFFF. Each halts with its kind and record and writes nothing
else (40_step_and_control_flow.md R126 to R130, 60_exceptions.md R230, R234). D16, D17: the kind for an odd target and the order
of the checks. -/
def Obligations.ControlFlowFaults : Prop :=
  ∀ (s : State) (nnn : Addr) (r : Reg),
    (nnn.toNat % 2 = 1 →
      exec (.jp nnn) s = .next { s with
        errCause := some .outOfRangeJump, errAddr := s.pc - 2, errWord := encode (.jp nnn), run := .halted } ∧
      exec (.call nnn) s = .next { s with
        errCause := some .outOfRangeJump, errAddr := s.pc - 2, errWord := encode (.call nnn), run := .halted }) ∧
    (nnn.toNat % 2 = 0 → s.sp.val = 16 →
      exec (.call nnn) s = .next { s with
        errCause := some .stackOverflow, errAddr := s.pc - 2, errWord := encode (.call nnn), run := .halted }) ∧
    (s.sp.val = 0 →
      exec .ret s = .next { s with
        errCause := some .stackUnderflow, errAddr := s.pc - 2, errWord := 0x00EE, run := .halted }) ∧
    ((s.cfg.jumpQuirk = .v0 → r = 0) → (s.cfg.jumpQuirk = .vx → r.val = nnn.toNat / 256) →
      (nnn.toNat + s.v[r].toNat > 0xFFF ∨ (nnn.toNat + s.v[r].toNat) % 2 = 1) →
      exec (.jpV0 nnn) s = .next { s with
        errCause := some .outOfRangeJump, errAddr := s.pc - 2, errWord := encode (.jpV0 nnn), run := .halted })

/-! ### Load, arithmetic, logic, shift, random -/

/-- `LD Vx, kk` puts the literal and `LD Vx, Vy` puts `V[y]` into `V[x]`; every other register and everything else is as before
(41_load_arith_logic.md R152, R154). -/
def Obligations.LoadsWriteOneRegister : Prop :=
  ∀ (s : State) (x y : Reg) (kk : Byte),
    (∃ t, exec (.ldImm x kk) s = .next t ∧ (∀ r : Reg, t.v[r] = if r = x then kk else s.v[r]) ∧ t = { s with v := t.v }) ∧
    (∃ t, exec (.ldReg x y) s = .next t ∧ (∀ r : Reg, t.v[r] = if r = x then s.v[y] else s.v[r]) ∧ t = { s with v := t.v })

/-- `ADD Vx, kk` adds modulo 256 and writes no other register, VF among them (41_load_arith_logic.md R153). D12: that VF is not
written. -/
def Obligations.AddImmediateWritesNoFlag : Prop :=
  ∀ (s : State) (x : Reg) (kk : Byte),
    ∃ t, exec (.addImm x kk) s = .next t ∧ t.v[x].toNat = (s.v[x].toNat + kk.toNat) % 256 ∧
      (∀ r : Reg, r ≠ x → t.v[r] = s.v[r]) ∧ t = { s with v := t.v }

/-- `OR`, `AND` and `XOR` act bit by bit on `V[x]` and `V[y]` and write no other register (41_load_arith_logic.md R155 to R157).
D12: that VF is not written. -/
def Obligations.LogicActsBitByBit : Prop :=
  ∀ (s : State) (x y : Reg),
    (∃ t, exec (.orReg x y) s = .next t ∧
      (∀ b < 8, t.v[x].getLsbD b = (s.v[x].getLsbD b || s.v[y].getLsbD b)) ∧
      (∀ r : Reg, r ≠ x → t.v[r] = s.v[r]) ∧ t = { s with v := t.v }) ∧
    (∃ t, exec (.andReg x y) s = .next t ∧
      (∀ b < 8, t.v[x].getLsbD b = (s.v[x].getLsbD b && s.v[y].getLsbD b)) ∧
      (∀ r : Reg, r ≠ x → t.v[r] = s.v[r]) ∧ t = { s with v := t.v }) ∧
    (∃ t, exec (.xorReg x y) s = .next t ∧
      (∀ b < 8, t.v[x].getLsbD b = (s.v[x].getLsbD b != s.v[y].getLsbD b)) ∧
      (∀ r : Reg, r ≠ x → t.v[r] = s.v[r]) ∧ t = { s with v := t.v })

/-- `ADD Vx, Vy`, `SUB` and `SUBN`: the result modulo 256 in `V[x]`, carry or no borrow in VF, both from the registers as they were,
VF written last so that it holds the flag when `x` is 15 (41_load_arith_logic.md R158, R159, R162). -/
def Obligations.AddAndSubtractSetFlag : Prop :=
  ∀ (s : State) (x y : Reg),
    (∃ t, exec (.addReg x y) s = .next t ∧
      (x ≠ 15 → t.v[x].toNat = (s.v[x].toNat + s.v[y].toNat) % 256) ∧
      t.v[(15 : Reg)] = (if s.v[x].toNat + s.v[y].toNat > 255 then 1 else 0) ∧
      (∀ r : Reg, r ≠ x → r ≠ 15 → t.v[r] = s.v[r]) ∧ t = { s with v := t.v }) ∧
    (∃ t, exec (.sub x y) s = .next t ∧
      (x ≠ 15 → (t.v[x].toNat : Int) = ((s.v[x].toNat : Int) - s.v[y].toNat) % 256) ∧
      t.v[(15 : Reg)] = (if s.v[x].toNat ≥ s.v[y].toNat then 1 else 0) ∧
      (∀ r : Reg, r ≠ x → r ≠ 15 → t.v[r] = s.v[r]) ∧ t = { s with v := t.v }) ∧
    (∃ t, exec (.subn x y) s = .next t ∧
      (x ≠ 15 → (t.v[x].toNat : Int) = ((s.v[y].toNat : Int) - s.v[x].toNat) % 256) ∧
      t.v[(15 : Reg)] = (if s.v[y].toNat ≥ s.v[x].toNat then 1 else 0) ∧
      (∀ r : Reg, r ≠ x → r ≠ 15 → t.v[r] = s.v[r]) ∧ t = { s with v := t.v })

/-- `SHR` and `SHL` shift by one the register the shift selector names, put the result in `V[x]` and the bit shifted out in VF, VF
last (41_load_arith_logic.md R160, R161, R163). D8, D10, D11: the selector's variants, the flag's value, its order. -/
def Obligations.ShiftsMoveOneBitOut : Prop :=
  ∀ (s : State) (x y src : Reg), (s.cfg.shiftQuirk = .vxOnly → src = x) → (s.cfg.shiftQuirk = .vyToVx → src = y) →
    (∃ t, exec (.shr x y) s = .next t ∧
      (x ≠ 15 → t.v[x].toNat = s.v[src].toNat / 2) ∧ t.v[(15 : Reg)].toNat = s.v[src].toNat % 2 ∧
      (∀ r : Reg, r ≠ x → r ≠ 15 → t.v[r] = s.v[r]) ∧ t = { s with v := t.v }) ∧
    (∃ t, exec (.shl x y) s = .next t ∧
      (x ≠ 15 → t.v[x].toNat = s.v[src].toNat * 2 % 256) ∧ t.v[(15 : Reg)].toNat = s.v[src].toNat / 128 ∧
      (∀ r : Reg, r ≠ x → r ≠ 15 → t.v[r] = s.v[r]) ∧ t = { s with v := t.v })

/-- `RND Vx, kk`, for every draw the step may have been given: a bit of `V[x]` is the draw's bit where `kk` has a 1, and 0 elsewhere
(41_load_arith_logic.md R170). D22: that the draw is free. -/
def Obligations.RandomByteUnderMask : Prop :=
  ∀ (s : State) (x : Reg) (kk : Byte),
    ∃ t, exec (.rnd x kk) s = .next t ∧ (∀ b < 8, t.v[x].getLsbD b = (s.rnd.getLsbD b && kk.getLsbD b)) ∧
      (∀ r : Reg, r ≠ x → t.v[r] = s.v[r]) ∧ t = { s with v := t.v }

/-- The registers an instruction may write: its destination, and VF for the instructions that set the flag (10_state.md R22). -/
def Sys2Proof.Machine.mayWriteReg : Instr → Reg → Prop
  | .ldImm x _, r | .addImm x _, r | .ldReg x _, r | .orReg x _, r | .andReg x _, r | .xorReg x _, r
  | .rnd x _, r | .ldVxDt x, r => r = x
  | .addReg x _, r | .sub x _, r | .subn x _, r | .shr x _, r | .shl x _, r => r = x ∨ r = 15
  | .drw _ _ _, r => r = 15
  | .ldRegs x, r => r ≤ x
  | _, _ => False

/-- Every instruction leaves every register alone except its destination and, for `ADD Vx, Vy`, `SUB`, `SHR`, `SUBN`, `SHL` and
`DRW`, VF (10_state.md R22). D12: that no other instruction writes VF unasked. `LD Vx, K` writes its register in a later step. -/
def Obligations.OnlyNamedRegistersChange : Prop :=
  ∀ (i : Instr) (s t : State) (r : Reg), exec i s = .next t → ¬mayWriteReg i r → t.v[r] = s.v[r]

/-- Right after an instruction that sets the flag VF is 0 or 1 (10_state.md R39 (c)). -/
def Obligations.FlagIsZeroOrOne : Prop :=
  ∀ (s t : State) (x y : Reg) (n : Fin 16) (i : Instr),
    i ∈ [.addReg x y, .sub x y, .subn x y, .shr x y, .shl x y, .drw x y n] → exec i s = .next t →
    t.v[(15 : Reg)] = 0 ∨ t.v[(15 : Reg)] = 1

/-! ### Index register and memory -/

/-- A word Annn is `LD I, nnn`; it loads the literal with zeros above it and changes nothing else (42_index_and_memory.md R181). -/
def Obligations.LoadIndexLiteral : Prop :=
  (∀ w : Word, w.toNat / 4096 = 0xA → decode w = .ok (.ldI (BitVec.ofNat 12 (w.toNat % 4096)))) ∧
  ∀ (s : State) (nnn : Addr), ∃ t, exec (.ldI nnn) s = .next t ∧ t.i.toNat = nnn.toNat ∧ t = { s with i := t.i }

/-- `ADD I, Vx` adds modulo 65536; `LD F, Vx` points at the glyph of the register's low nibble (42_index_and_memory.md R182, R183).
D7, D12, D21: the width, VF unwritten, the low nibble. -/
def Obligations.IndexArithmetic : Prop :=
  ∀ (s : State) (x : Reg),
    (∃ t, exec (.addI x) s = .next t ∧ t.i.toNat = (s.i.toNat + s.v[x].toNat) % 65536 ∧ t = { s with i := t.i }) ∧
    (∃ t, exec (.ldF x) s = .next t ∧ t.i.toNat = s.cfg.fontBase.toNat + 5 * (s.v[x].toNat % 16) ∧ t = { s with i := t.i })

/-- `LD B, Vx` stores hundreds, tens and ones at `I`, `I + 1` and `I + 2`, addresses modulo 4096; every other byte reads as before and
nothing else changes, `I` included (42_index_and_memory.md R185). D13, D28: `I` unchanged, the digits' order. The premise is
the canonical form of memory, which every step keeps. -/
def Obligations.StoreDecimalDigits : Prop :=
  ∀ (s : State) (x : Reg), Memory.wf s.mem →
    ∃ t, exec (.ldB x) s = .next t ∧
      (t.readByte s.i.toNat).toNat = s.v[x].toNat / 100 ∧
      (t.readByte (s.i.toNat + 1)).toNat = s.v[x].toNat / 10 % 10 ∧
      (t.readByte (s.i.toNat + 2)).toNat = s.v[x].toNat % 10 ∧
      (∀ a, (∀ k < 3, a % 4096 ≠ (s.i.toNat + k) % 4096) → t.readByte a = s.readByte a) ∧
      t = { s with mem := t.mem }

/-- `LD [I], Vx` stores `V[0]` to `V[x]` at `I` onward, addresses modulo 4096; every other byte reads as before and nothing else
changes, `I` included (42_index_and_memory.md R186). D13: `I` unchanged. The premise is the canonical form of memory. -/
def Obligations.StoreRegisters : Prop :=
  ∀ (s : State) (x : Reg), Memory.wf s.mem →
    ∃ t, exec (.stRegs x) s = .next t ∧
      (∀ r : Reg, r ≤ x → t.readByte (s.i.toNat + r.val) = s.v[r]) ∧
      (∀ a, (∀ k ≤ x.val, a % 4096 ≠ (s.i.toNat + k) % 4096) → t.readByte a = s.readByte a) ∧
      t = { s with mem := t.mem }

/-- `LD Vx, [I]` loads `V[0]` to `V[x]` from `I` onward and changes nothing else, memory and `I` included (42_index_and_memory.md
R187). D13: `I` unchanged. -/
def Obligations.LoadRegisters : Prop :=
  ∀ (s : State) (x : Reg),
    ∃ t, exec (.ldRegs x) s = .next t ∧
      (∀ r : Reg, t.v[r] = if r ≤ x then s.readByte (s.i.toNat + r.val) else s.v[r]) ∧ t = { s with v := t.v }

/-- Stores over the next instruction are seen by the next fetch. Every byte that `LD [I], Vx` or `LD B, Vx` stores at `PC` is the high
byte of the word the next step fetches, and every byte it stores at `PC + 1` is the low byte, addresses modulo 4096; the run of
stored bytes may begin before `PC` and may take in one byte of the word or both (20_memory.md R73, 42_index_and_memory.md R185,
R186). D28: the digits' order. The premise is the canonical form of memory (log entry 9), which every step keeps. -/
def Obligations.StoreIsSeenByNextFetch : Prop :=
  ∀ (s : State) (x : Reg), Memory.wf s.mem →
    (∃ t, exec (.stRegs x) s = .next t ∧ t.pc = s.pc ∧
      ∀ k : Reg, k ≤ x →
        ((s.i.toNat + k.val) % 4096 = s.pc.toNat % 4096 → t.fetchWord.toNat / 256 = s.v[k].toNat) ∧
        ((s.i.toNat + k.val) % 4096 = (s.pc.toNat + 1) % 4096 → t.fetchWord.toNat % 256 = s.v[k].toNat)) ∧
    (∃ t, exec (.ldB x) s = .next t ∧ t.pc = s.pc ∧
      ∀ (k : Fin 3) (digit : Nat),
        (k = 0 → digit = s.v[x].toNat / 100) → (k = 1 → digit = s.v[x].toNat / 10 % 10) → (k = 2 → digit = s.v[x].toNat % 10) →
        ((s.i.toNat + k.val) % 4096 = s.pc.toNat % 4096 → t.fetchWord.toNat / 256 = digit) ∧
        ((s.i.toNat + k.val) % 4096 = (s.pc.toNat + 1) % 4096 → t.fetchWord.toNat % 256 = digit))

/-- Canonical memories that read alike at every address are the same list (20_memory.md R60, R67; the canonical form is the model's,
log entry 9). -/
def Obligations.CanonicalMemoryIsUnique : Prop :=
  ∀ m n : Memory, Memory.wf m → Memory.wf n → (∀ a, Memory.read m a = Memory.read n a) → m = n

/-! ### Display -/

/-- The word 00E0 is `CLS`; it unsets every pixel and changes nothing else (43_display.md R201). -/
def Obligations.ClearUnsetsEveryPixel : Prop :=
  decode 0x00E0 = .ok .cls ∧
  ∀ s : State, ∃ t, exec .cls s = .next t ∧ (∀ px py, t.pixelAt px py = false) ∧ t = { s with fb := t.fb }

/-- The sprite that `DRW Vx, Vy, n` reads in state `s` has a 1 for the pixel (px, py): bit 7 - c of the byte at `I + r`, for the row
`V[y] + r` modulo 32 and the column `V[x] + c` modulo 64. -/
def Sys2Proof.Machine.spriteSets (s : State) (x y : Reg) (n : Fin 16) (px : Fin 64) (py : Fin 32) : Prop :=
  ∃ r < n.val, ∃ c < 8, (s.v[x].toNat + c) % 64 = px.val ∧ (s.v[y].toNat + r) % 32 = py.val ∧
    (s.readByte (s.i.toNat + r)).getLsbD (7 - c) = true

/-- `DRW Vx, Vy, n`: a pixel for which the sprite has a 1 is flipped, every other is kept; VF is 1 if some pixel went from set to
unset, else 0; nothing else changes, memory and `I` included (43_display.md R200, R202, R203). D13, D23, D24: `I` unchanged,
bit 7 leftmost, VF 0 without a collision and for `n` = 0. -/
def Obligations.DrawXorsSpriteAndReportsCollision : Prop :=
  ∀ (s : State) (x y : Reg) (n : Fin 16),
    ∃ t, exec (.drw x y n) s = .next t ∧
      (∀ px py, spriteSets s x y n px py → t.pixelAt px py = !s.pixelAt px py) ∧
      (∀ px py, ¬spriteSets s x y n px py → t.pixelAt px py = s.pixelAt px py) ∧
      ((∃ px py, s.pixelAt px py = true ∧ t.pixelAt px py = false) → t.v[(15 : Reg)] = 1) ∧
      ((¬∃ px py, s.pixelAt px py = true ∧ t.pixelAt px py = false) → t.v[(15 : Reg)] = 0) ∧
      (∀ r : Reg, r ≠ 15 → t.v[r] = s.v[r]) ∧ t = { s with v := t.v, fb := t.fb }

/-- Drawing a sprite twice at one place restores the display, whatever it held; from a clear display the second draw reports a
collision exactly when the sprite has a 1 bit (43_display.md R204, R205). -/
def Obligations.DrawingTwiceRestoresDisplay : Prop :=
  ∀ (d : Display) (cx cy : Nat) (rows : List Byte), rows.length ≤ 15 →
    ((d.draw cx cy rows).fb.draw cx cy rows).fb = d ∧
    (((Display.blank.draw cx cy rows).fb.draw cx cy rows).coll = true ↔ ∃ b ∈ rows, b ≠ 0)

/-- No instruction other than `CLS` and `DRW` changes the display (10_state.md R33). -/
def Obligations.OnlyClsAndDrwChangeDisplay : Prop :=
  ∀ (i : Instr) (s t : State), exec i s = .next t → i ≠ .cls → (∀ x y n, i ≠ .drw x y n) → t.fb = s.fb

/-! ### Timers and keypad -/

/-- `LD Vx, DT` puts `DT` into `V[x]`, `LD DT, Vx` puts `V[x]` into `DT`, `LD ST, Vx` puts it into `ST`, and the sound is then active exactly
when that value is not 0; nothing else changes (44_timer_instructions.md R210 to R212). -/
def Obligations.TimerMoves : Prop :=
  ∀ (s : State) (x : Reg),
    (∃ t, exec (.ldVxDt x) s = .next t ∧ (∀ r : Reg, t.v[r] = if r = x then s.dt else s.v[r]) ∧ t = { s with v := t.v }) ∧
    (∃ t, exec (.ldDtVx x) s = .next t ∧ t.dt = s.v[x] ∧ t = { s with dt := t.dt }) ∧
    (∃ t, exec (.ldStVx x) s = .next t ∧ t.st = s.v[x] ∧ (t.soundActive = true ↔ s.v[x] ≠ 0) ∧ t = { s with st := t.st })

/-- `TimerTick` takes one from each counter that is above 0 and keeps a counter at 0, in every run state; nothing else changes
(60_exceptions.md R245). -/
def Obligations.TickCountsEachTimerDown : Prop :=
  ∀ s : State,
    ∃ t, transition .timerTick s = .next t ∧ (s.dt.toNat > 0 → t.dt.toNat = s.dt.toNat - 1) ∧ (s.dt.toNat = 0 → t.dt.toNat = 0) ∧
      (s.st.toNat > 0 → t.st.toNat = s.st.toNat - 1) ∧ (s.st.toNat = 0 → t.st.toNat = 0) ∧ t = { s with dt := t.dt, st := t.st }

/-- After `n` ticks and nothing else `DT` is the larger of its old value minus `n` and 0, and so is `ST` (60_exceptions.md R247). -/
def Obligations.TicksReachZeroAndStay : Prop :=
  ∀ (n : Nat) (s : State) (rest : List Input), s.inputs = List.replicate n .timerTick ++ rest →
    ∃ t, runFor n s = .next t ∧ t.dt.toNat = s.dt.toNat - n ∧ t.st.toNat = s.st.toNat - n ∧
      t = { s with dt := t.dt, st := t.st, inputs := rest }

/-- `KeyEvent(k, p)` sets the key's level; a press that is an edge during a wait whose latch is empty fills the latch; nothing else
changes (60_exceptions.md R248). -/
def Obligations.KeyEventSetsLevelAndLatch : Prop :=
  ∀ (s : State) (k : Key) (p : Bool),
    ∃ t, transition (.keyEvent k p) s = .next t ∧ (∀ j : Key, t.keys[j] = if j = k then p else s.keys[j]) ∧
      (s.run = .waitKey ∧ p = true ∧ s.keys[k] = false ∧ s.hitValid = false → t.hitKey = k ∧ t.hitValid = true) ∧
      (¬(s.run = .waitKey ∧ p = true ∧ s.keys[k] = false ∧ s.hitValid = false) →
        t.hitKey = s.hitKey ∧ t.hitValid = s.hitValid) ∧
      t = { s with keys := t.keys, hitKey := t.hitKey, hitValid := t.hitValid }

/-- `LD Vx, K`, the issue: the machine waits, remembers the register and empties the latch; the register is not written yet and `PC`
stays at the next instruction (45_keypad_instructions.md R222). D20: the latch and where `PC` stands. -/
def Obligations.KeyWaitIsIssued : Prop :=
  ∀ (s : State) (x : Reg), ∃ t, exec (.ldVxK x) s = .next t ∧ t.run = .waitKey ∧ t.waitReg = x ∧ t.hitValid = false ∧
    t.stepResult = .waiting ∧ t = { s with run := t.run, waitReg := t.waitReg, hitValid := t.hitValid }

/-- A step during the wait fetches nothing. With the latch set it writes the key into the remembered register, empties the latch and
runs on; with the latch empty it changes nothing (45_keypad_instructions.md R223). D20: the completing step does nothing else. -/
def Obligations.WaitingStepPollsTheLatch : Prop :=
  ∀ (s : State) (rnd : Byte), s.run = .waitKey →
    (s.hitValid = false → cpuStep rnd s = .next s ∧ s.stepResult = .waiting) ∧
    (s.hitValid = true → ∃ t, cpuStep rnd s = .next t ∧ t.v[s.waitReg].toNat = s.hitKey.val ∧
      (∀ r : Reg, r ≠ s.waitReg → t.v[r] = s.v[r]) ∧ t.hitValid = false ∧ t.run = .running ∧ t.stepResult = .completed ∧
      t = { s with v := t.v, hitValid := t.hitValid, run := t.run })

/-- The whole wait: `LD Vx, K` is issued, idle steps change nothing, the first press of a key that was up is latched, and the next step
delivers it; `PC` has moved by 2 in all (45_keypad_instructions.md R222, R223). D20. -/
def Obligations.KeyWaitDeliversPressedKey : Prop :=
  ∀ (s : State) (x : Reg) (k : Key) (idle : List Byte) (r1 r2 : Byte) (rest : List Input),
    s.run = .running → decode s.fetchWord = .ok (.ldVxK x) → s.keys[k] = false →
    s.inputs = .step r1 :: (idle.map Input.step ++ .keyEvent k true :: .step r2 :: rest) →
    ∃ t, runFor (idle.length + 3) s = .next t ∧ t.v[x].toNat = k.val ∧ t.run = .running ∧ t.pc = s.pc + 2 ∧
      (∀ r : Reg, r ≠ x → t.v[r] = s.v[r]) ∧ t.mem = s.mem ∧ t.fb = s.fb ∧ t.i = s.i ∧ t.inputs = rest

/-! ### Whole-machine rules -/

/-- Every instruction of the opcode map answers a next state in every state. This rests on the model's reading of a fault (log entry 3,
DEDUCED): R230 calls the four faults of a running machine fatal, and the model makes each the halted next state that R232 writes
out and R124 reports (60_exceptions.md R230, R232, 40_step_and_control_flow.md R124). -/
def Obligations.EveryInstructionAnswersNext : Prop := ∀ (i : Instr) (s : State), ∃ t, exec i s = .next t

/-- A step stops only at a `PowerOn`: with `LoadError` for an image above 3584 bytes, or refused for a font address the spec excludes
(60_exceptions.md R230, R235, 00_scope.md R7). The model's own in this: a fault of a running machine is a next state and no stop
(log entry 3, DEDUCED), a `LoadError` leaves no machine, the old one included (log entry 4, DEDUCED), and the refusal (log entry
5, DESIGN CHOICE). -/
def Obligations.OnlyPowerOnStops : Prop :=
  ∀ s : State,
    (∀ f, step s = .fault f → f = .loadError ∧ ∃ cfg rom rest, s.inputs = .powerOn cfg rom :: rest ∧ rom.length > 3584) ∧
    (∀ r, step s = .refused r → r = .fontBaseOutOfRange ∧
      ∃ cfg rom rest, s.inputs = .powerOn cfg rom :: rest ∧ cfg.fontBase.toNat + 80 > 0x200)

/-- Who writes what. `I`: only `LD I`, `ADD I`, `LD F`. `DT`, `ST`: only their own loads. Memory: only `LD B`, `LD [I]`. The stack's slots:
only `CALL`; its height: only `CALL`, `RET`. The wait register and the latch's valid bit: only `LD Vx, K`. The keys, the latched
key and `cfg`: no instruction (10_state.md R27, R28, R30, R32, R34, R35). -/
def Obligations.SpecialStateHasItsWriters : Prop :=
  ∀ (i : Instr) (s t : State), exec i s = .next t →
    ((∀ nnn, i ≠ .ldI nnn) → (∀ x, i ≠ .addI x) → (∀ x, i ≠ .ldF x) → t.i = s.i) ∧
    ((∀ x, i ≠ .ldDtVx x) → t.dt = s.dt) ∧ ((∀ x, i ≠ .ldStVx x) → t.st = s.st) ∧
    ((∀ x, i ≠ .ldB x) → (∀ x, i ≠ .stRegs x) → ∀ a, t.readByte a = s.readByte a) ∧
    ((∀ nnn, i ≠ .call nnn) → t.stack = s.stack) ∧ ((∀ nnn, i ≠ .call nnn) → i ≠ .ret → t.sp = s.sp) ∧
    ((∀ x, i ≠ .ldVxK x) → t.waitReg = s.waitReg ∧ t.hitValid = s.hitValid) ∧
    t.keys = s.keys ∧ t.hitKey = s.hitKey ∧ t.cfg = s.cfg

/-- The run state's transitions by a step. `WAIT_KEY` is entered from `RUNNING`, only by `LD Vx, K`, and left only to `RUNNING` and only
with the latch set. `HALTED` is entered from `RUNNING`, only with a cause recorded: `UnknownOpcode` by a word that decodes to no
instruction, `StackOverflow` by `CALL`, `StackUnderflow` by `RET`, `OutOfRangeJump` by `JP`, `CALL` or opcode Bnnn. `HALTED` is
left by no step (10_state.md R36, 60_exceptions.md R230). -/
def Obligations.RunStateTransitions : Prop :=
  ∀ (s t : State) (rnd : Byte), cpuStep rnd s = .next t →
    (s.run = .running → t.run = .waitKey → ∃ x, decode s.fetchWord = .ok (.ldVxK x)) ∧
    (s.run = .running → t.run = .halted →
      (t.errCause = some .unknownOpcode ∧ ∃ e, decode s.fetchWord = .error e) ∨
      (t.errCause = some .stackOverflow ∧ ∃ nnn, decode s.fetchWord = .ok (.call nnn)) ∨
      (t.errCause = some .stackUnderflow ∧ decode s.fetchWord = .ok .ret) ∨
      (t.errCause = some .outOfRangeJump ∧
        ∃ nnn, decode s.fetchWord = .ok (.jp nnn) ∨ decode s.fetchWord = .ok (.call nnn) ∨
          decode s.fetchWord = .ok (.jpV0 nnn))) ∧
    (s.run = .waitKey → (t.run = .running ∧ s.hitValid = true) ∨ (t.run = .waitKey ∧ s.hitValid = false)) ∧
    (s.run = .halted → t.run = .halted)

/-- A timer tick and a key event change no general register, no `PC`, `I`, stack, memory, display, run state, halt record or `cfg`
(60_exceptions.md R240). -/
def Obligations.EventsNeverTouchTheProgram : Prop :=
  ∀ (s t : State) (e : Input), (e = .timerTick ∨ ∃ k p, e = .keyEvent k p) → transition e s = .next t →
    t.v = s.v ∧ t.pc = s.pc ∧ t.i = s.i ∧ t.stack = s.stack ∧ t.sp = s.sp ∧ (∀ a, t.readByte a = s.readByte a) ∧ t.fb = s.fb ∧
    t.run = s.run ∧ t.errCause = s.errCause ∧ t.errAddr = s.errAddr ∧ t.errWord = s.errWord ∧ t.cfg = s.cfg

/-- `ST` cannot be read by any instruction: from two states that differ in `ST` alone an instruction leads to two states that differ in
`ST` alone (10_state.md R30). -/
def Obligations.SoundTimerIsUnreadable : Prop :=
  ∀ (i : Instr) (s t : State) (b : Byte), exec i s = .next t → ∃ b', exec i { s with st := b } = .next { t with st := b' }

/-- The stack keeps its contents from the program: from two states that differ only in dead slots (at or above `SP`) an instruction
leads to two states that differ only in dead slots (10_state.md R29). -/
def Obligations.DeadStackSlotsAreUnreadable : Prop :=
  ∀ (i : Instr) (s t : State) (slots : Vector Word 16), (∀ k : Fin 16, k.val < s.sp.val → slots[k] = s.stack[k]) →
    exec i s = .next t →
    ∃ slots' : Vector Word 16, exec i { s with stack := slots } = .next { t with stack := slots' } ∧
      ∀ k : Fin 16, k.val < t.sp.val → slots'[k] = t.stack[k]

/-- The customary end of a program: a running machine at a `JP` to its own even address stays there for ever, step after step, and only
the model's draws change (70_reset_and_hazards.md R287). The empty list of inputs is the model's (log entry 1). -/
def Obligations.SelfJumpLoopsForever : Prop :=
  ∀ (s : State) (n : Nat), s.atFinalLoop → s.pc.toNat % 2 = 0 → s.inputs = [] →
    ∃ t, runFor n s = .next t ∧ t = { s with rnd := t.rnd, draws := t.draws }

/-! ### Power-on and queries -/

/-- Memory after `PowerOn`: the image at 0x200, the font at `FONT_BASE`, `FILL` elsewhere (70_reset_and_hazards.md R270, 10_state.md R41).
D2, D3: the font bytes and `FILL`. -/
def Obligations.PowerOnLoadsFontAndProgram : Prop :=
  ∀ (s : State) (cfg : Cfg) (rom : List Byte), rom.length ≤ 3584 → cfg.fontBase.toNat + 80 ≤ 0x200 →
    ∃ t, powerOn cfg rom s = .next t ∧
      (∀ k, (h : k < rom.length) → t.readByte (0x200 + k) = rom[k]) ∧
      (∀ k, (h : k < fontBytes.length) → t.readByte (cfg.fontBase.toNat + k) = fontBytes[k]) ∧
      (∀ a, a < 4096 → ¬(0x200 ≤ a ∧ a < 0x200 + rom.length) →
        ¬(cfg.fontBase.toNat ≤ a ∧ a < cfg.fontBase.toNat + 80) → t.readByte a = 0x00)

/-- `PowerOn` leaves every other piece of state at its value of 10_state.md R40, whatever it was before, and stores `cfg`; an image
above 3584 bytes gives `LoadError` (70_reset_and_hazards.md R270, R271, 20_memory.md R68). D4, D5, D18, D20: the values the
source does not give. -/
def Obligations.PowerOnResetsEverything : Prop :=
  ∀ (s : State) (cfg : Cfg) (rom : List Byte),
    (rom.length > 3584 → powerOn cfg rom s = .fault .loadError) ∧
    (rom.length ≤ 3584 → cfg.fontBase.toNat + 80 ≤ 0x200 →
      ∃ t, powerOn cfg rom s = .next t ∧ (∀ r : Reg, t.v[r] = 0) ∧ t.i = 0 ∧ t.pc = 0x200 ∧ t.sp.val = 0 ∧
        (∀ k : Fin 16, t.stack[k] = 0) ∧ t.dt = 0 ∧ t.st = 0 ∧ (∀ px py, t.pixelAt px py = false) ∧
        (∀ k : Key, t.keys[k] = false) ∧ t.run = .running ∧ t.waitReg = 0 ∧ t.hitValid = false ∧ t.hitKey = 0 ∧
        errCode t.errCause = 0 ∧ t.errAddr = 0 ∧ t.errWord = 0 ∧ t.cfg = cfg)

/-- The reset state is the state after `PowerOn` with the default parameters and an empty image (70_reset_and_hazards.md R270). The
defaults and the image are the model's choice (log entries 6 and 7). -/
def Obligations.ResetIsDefaultPowerOn : Prop := powerOn defaultCfg [] State.reset = .next State.reset

/-- `sound_active()` is 1 exactly when `ST` is above 0 (60_exceptions.md R251). -/
def Obligations.SoundActiveWhenTimerRuns : Prop := ∀ s : State, s.soundActive = true ↔ s.st.toNat > 0
end

