-- ==== Sys2Proof/Laws/Memory.lean ====
section
/-! SUPPORT. The laws of memory: what a read sees after a write, and that every operation keeps the canonical form. -/

namespace Sys2Proof.Machine

theorem phys_lt (a : Nat) : phys a < memSize := Nat.mod_lt _ (by decide)

theorem phys_of_lt {a : Nat} (h : a < memSize) : phys a = a := Nat.mod_eq_of_lt h

@[simp] theorem phys_phys (a : Nat) : phys (phys a) = phys a := phys_of_lt (phys_lt a)

/-! ### The list of cells -/

/-- An address below every listed one is not listed. -/
theorem lookup_eq_none {m : Memory} {a : Nat} (h : ∀ c ∈ m, a ≠ c.1) : Memory.lookup m a = none := by
  induction m with
  | nil => rfl
  | cons c rest ih =>
    obtain ⟨k, b⟩ := c
    rw [Memory.lookup, if_neg (h (k, b) (by simp))]
    exact ih fun c hc => h c (by simp [hc])

theorem lookup_insert (m : Memory) (a b : Nat) (v : Byte) :
    Memory.lookup (Memory.insert a v m) b = if b = a then some v else Memory.lookup m b := by
  induction m with
  | nil => rfl
  | cons c rest ih =>
    obtain ⟨k, w⟩ := c
    simp only [Memory.insert]
    split
    · simp only [Memory.lookup]
    · split
      · subst_vars
        simp only [Memory.lookup]
        split <;> rfl
      · simp only [Memory.lookup, ih]
        split_ifs <;> first | rfl | omega

theorem lookup_erase {m : Memory} (hm : m.Pairwise fun c d => c.1 < d.1) (a b : Nat) :
    Memory.lookup (Memory.erase a m) b = if b = a then none else Memory.lookup m b := by
  induction m with
  | nil => simp [Memory.erase, Memory.lookup]
  | cons c rest ih =>
    obtain ⟨k, w⟩ := c
    obtain ⟨hk, hrest⟩ := List.pairwise_cons.1 hm
    simp only [Memory.erase]
    split
    · subst_vars
      simp only [Memory.lookup]
      split
      · subst_vars
        exact lookup_eq_none fun c hc => Nat.ne_of_lt (hk c hc)
      · rfl
    · simp only [Memory.lookup, ih hrest]
      split_ifs <;> first | rfl | omega

theorem mem_insert {m : Memory} {a : Nat} {v : Byte} {c : Host.Cell} (h : c ∈ Memory.insert a v m) : c = (a, v) ∨ c ∈ m := by
  induction m with
  | nil => simpa [Memory.insert] using h
  | cons d rest ih =>
    obtain ⟨k, w⟩ := d
    simp only [Memory.insert] at h
    split at h
    · simpa using h
    · split at h
      · rcases List.mem_cons.1 h with h | h
        · exact .inl h
        · exact .inr (by simp [h])
      · rcases List.mem_cons.1 h with h | h
        · exact .inr (by simp [h])
        · exact (ih h).imp id fun h => by simp [h]

theorem mem_of_mem_erase {m : Memory} {a : Nat} {c : Host.Cell} (h : c ∈ Memory.erase a m) : c ∈ m := by
  induction m with
  | nil => exact h
  | cons d rest ih =>
    obtain ⟨k, w⟩ := d
    simp only [Memory.erase] at h
    split at h
    · exact List.mem_cons_of_mem _ h
    · rcases List.mem_cons.1 h with h | h
      · simp [h]
      · exact List.mem_cons_of_mem _ (ih h)

theorem insert_pairwise {m : Memory} (hm : m.Pairwise fun c d => c.1 < d.1) (a : Nat) (v : Byte) :
    (Memory.insert a v m).Pairwise fun c d => c.1 < d.1 := by
  induction m with
  | nil => simp [Memory.insert]
  | cons c rest ih =>
    obtain ⟨k, w⟩ := c
    obtain ⟨hk, hrest⟩ := List.pairwise_cons.1 hm
    simp only [Memory.insert]
    split
    · rename_i hak
      refine List.pairwise_cons.2 ⟨fun d hd => ?_, hm⟩
      rcases List.mem_cons.1 hd with rfl | hd
      · exact hak
      · exact Nat.lt_trans hak (hk d hd)
    · split
      · subst_vars
        exact List.pairwise_cons.2 ⟨hk, hrest⟩
      · refine List.pairwise_cons.2 ⟨fun d hd => ?_, ih hrest⟩
        rcases mem_insert hd with rfl | hd
        · simp only; omega
        · exact hk d hd

theorem erase_pairwise {m : Memory} (hm : m.Pairwise fun c d => c.1 < d.1) (a : Nat) :
    (Memory.erase a m).Pairwise fun c d => c.1 < d.1 := by
  induction m with
  | nil => exact hm
  | cons c rest ih =>
    obtain ⟨k, w⟩ := c
    obtain ⟨hk, hrest⟩ := List.pairwise_cons.1 hm
    simp only [Memory.erase]
    split
    · exact hrest
    · exact List.pairwise_cons.2 ⟨fun d hd => hk d (mem_of_mem_erase hd), ih hrest⟩

/-! ### One byte -/

/-- A write keeps the canonical form. -/
theorem write_wf {m : Memory} (hm : Memory.wf m) (a : Nat) (b : Byte) : Memory.wf (Memory.write m a b) := by
  unfold Memory.write
  split
  · exact ⟨erase_pairwise hm.1 _, fun c hc => hm.2 c (mem_of_mem_erase hc)⟩
  · rename_i hb
    refine ⟨insert_pairwise hm.1 _ _, fun c hc => ?_⟩
    rcases mem_insert hc with rfl | hc
    · exact ⟨phys_lt a, hb⟩
    · exact hm.2 c hc

/-- A read after a write gives the byte written at the same byte of memory and what was there before at every other (20_memory.md R60
to R62). -/
theorem read_write {m : Memory} (hm : Memory.wf m) (a c : Nat) (b : Byte) :
    Memory.read (Memory.write m a b) c = if phys c = phys a then b else Memory.read m c := by
  unfold Memory.read Memory.write
  split
  · rename_i hb
    rw [lookup_erase hm.1]
    split
    · rename_i h
      rw [h, hb]
      rfl
    · rfl
  · rw [lookup_insert]
    split <;> rfl

/-- Every address reads as its reduction does. -/
@[simp] theorem read_phys (m : Memory) (a : Nat) : Memory.read m (phys a) = Memory.read m a := by
  simp only [Memory.read, phys_phys]

@[simp] theorem read_nil (a : Nat) : Memory.read [] a = unlistedByte (phys a) := rfl

theorem nil_wf : Memory.wf [] := by simp [Memory.wf]

/-! ### Runs of bytes -/

/-- A run of writes keeps the canonical form. -/
theorem writeBytes_wf {m : Memory} (hm : Memory.wf m) (a : Nat) (bytes : List Byte) :
    Memory.wf (Memory.writeBytes m a bytes) := by
  induction bytes generalizing m a with
  | nil => exact hm
  | cons b rest ih => exact ih (write_wf hm a b) (a + 1)

/-- A run of writes leaves every byte outside it alone. -/
theorem read_writeBytes_outside {m : Memory} (hm : Memory.wf m) {a c : Nat} {bytes : List Byte}
    (h : ∀ k < bytes.length, phys c ≠ phys (a + k)) : Memory.read (Memory.writeBytes m a bytes) c = Memory.read m c := by
  induction bytes generalizing m a with
  | nil => rfl
  | cons b rest ih =>
    rw [Memory.writeBytes, ih (write_wf hm a b), read_write hm, if_neg]
    · exact h 0 (by simp)
    · intro k hk
      have := h (k + 1) (by simpa using hk)
      rwa [show a + 1 + k = a + (k + 1) by omega]

/-- A run of writes that does not pass itself leaves its `k`-th byte at its `k`-th address. -/
theorem read_writeBytes_inside {m : Memory} (hm : Memory.wf m) {a k : Nat} {bytes : List Byte} (hk : k < bytes.length)
    (hlen : bytes.length ≤ memSize) : Memory.read (Memory.writeBytes m a bytes) (a + k) = bytes[k] := by
  induction bytes generalizing m a k with
  | nil => simp at hk
  | cons b rest ih =>
    simp only [List.length_cons] at hk hlen
    cases k with
    | zero =>
      rw [Memory.writeBytes, read_writeBytes_outside (write_wf hm a b), read_write hm]
      · simp
      · intro j hj
        simp only [phys, memSize] at *
        omega
    | succ k =>
      rw [Memory.writeBytes, show a + (k + 1) = a + 1 + k by omega, ih (write_wf hm a b) (by omega) (by omega)]
      simp

theorem readBytes_length (m : Memory) (a n : Nat) : (Memory.readBytes m a n).length = n := by
  induction n generalizing a with
  | zero => rfl
  | succ n ih => simp [Memory.readBytes, ih]

theorem readBytes_getElem (m : Memory) (a n k : Nat) (hk : k < (Memory.readBytes m a n).length) :
    (Memory.readBytes m a n)[k] = Memory.read m (a + k) := by
  induction n generalizing a k with
  | zero => simp [Memory.readBytes] at hk
  | succ n ih =>
    cases k with
    | zero => simp [Memory.readBytes]
    | succ k =>
      simp only [Memory.readBytes, List.getElem_cons_succ]
      rw [ih]
      congr 1
      omega

/-! ### Power-on -/

theorem unlistedByte_of_ge {a : Nat} (h : 80 ≤ a) : unlistedByte a = fill := by
  have hlen : fontBytes.length = 80 := by decide
  have h0 : defaultCfg.fontBase.toNat = 0 := by decide
  rw [unlistedByte, h0, if_pos (Nat.zero_le a), List.getD_eq_default]
  omega

theorem filled_wf : Memory.wf Memory.filled := writeBytes_wf nil_wf _ _

/-- Every address of filled memory holds `FILL`. -/
theorem read_filled (a : Nat) : Memory.read Memory.filled a = fill := by
  have hlen : fontBytes.length = 80 := by decide
  have h0 : defaultCfg.fontBase.toNat = 0 := by decide
  unfold Memory.filled
  rw [h0, hlen]
  by_cases h : phys a < 80
  · have := read_writeBytes_inside (m := []) nil_wf (a := 0) (k := phys a) (bytes := List.replicate 80 fill)
      (by simpa using h) (by simp [memSize])
    rwa [Nat.zero_add, read_phys, List.getElem_replicate] at this
  · rw [read_writeBytes_outside nil_wf, read_nil, unlistedByte_of_ge (by omega)]
    intro k hk
    simp only [List.length_replicate] at hk
    simp only [phys, memSize] at *
    omega

/-- Memory after power-on is in canonical form. -/
theorem loadedMemory_wf (cfg : Cfg) (rom : List Byte) : Memory.wf (loadedMemory cfg rom) :=
  writeBytes_wf (writeBytes_wf filled_wf _ _) _ _

/-- Reset memory is in canonical form. -/
theorem reset_mem_wf : Memory.wf State.reset.mem := nil_wf

end Sys2Proof.Machine
end

