-- ==== Sys2Proof/Laws/State.lean ====
section
/-! SUPPORT. One lemma for each field and each update of the state, so that no later proof unfolds a record update. -/

namespace Sys2Proof.Machine

section Updates

variable (s : State)

/-! `setV`: writes `v`. -/

@[simp] theorem State.setV_v (r : Reg) (b : Byte) : (s.setV r b).v = s.v.set r.val b r.isLt := rfl
@[simp] theorem State.setV_i (r : Reg) (b : Byte) : (s.setV r b).i = s.i := rfl
@[simp] theorem State.setV_pc (r : Reg) (b : Byte) : (s.setV r b).pc = s.pc := rfl
@[simp] theorem State.setV_stack (r : Reg) (b : Byte) : (s.setV r b).stack = s.stack := rfl
@[simp] theorem State.setV_sp (r : Reg) (b : Byte) : (s.setV r b).sp = s.sp := rfl
@[simp] theorem State.setV_dt (r : Reg) (b : Byte) : (s.setV r b).dt = s.dt := rfl
@[simp] theorem State.setV_st (r : Reg) (b : Byte) : (s.setV r b).st = s.st := rfl
@[simp] theorem State.setV_mem (r : Reg) (b : Byte) : (s.setV r b).mem = s.mem := rfl
@[simp] theorem State.setV_fb (r : Reg) (b : Byte) : (s.setV r b).fb = s.fb := rfl
@[simp] theorem State.setV_keys (r : Reg) (b : Byte) : (s.setV r b).keys = s.keys := rfl
@[simp] theorem State.setV_run (r : Reg) (b : Byte) : (s.setV r b).run = s.run := rfl
@[simp] theorem State.setV_waitReg (r : Reg) (b : Byte) : (s.setV r b).waitReg = s.waitReg := rfl
@[simp] theorem State.setV_hitValid (r : Reg) (b : Byte) : (s.setV r b).hitValid = s.hitValid := rfl
@[simp] theorem State.setV_hitKey (r : Reg) (b : Byte) : (s.setV r b).hitKey = s.hitKey := rfl
@[simp] theorem State.setV_errCause (r : Reg) (b : Byte) : (s.setV r b).errCause = s.errCause := rfl
@[simp] theorem State.setV_errAddr (r : Reg) (b : Byte) : (s.setV r b).errAddr = s.errAddr := rfl
@[simp] theorem State.setV_errWord (r : Reg) (b : Byte) : (s.setV r b).errWord = s.errWord := rfl
@[simp] theorem State.setV_cfg (r : Reg) (b : Byte) : (s.setV r b).cfg = s.cfg := rfl
@[simp] theorem State.setV_inputs (r : Reg) (b : Byte) : (s.setV r b).inputs = s.inputs := rfl
@[simp] theorem State.setV_rnd (r : Reg) (b : Byte) : (s.setV r b).rnd = s.rnd := rfl
@[simp] theorem State.setV_draws (r : Reg) (b : Byte) : (s.setV r b).draws = s.draws := rfl

/-! `setI`: writes `i`. -/

@[simp] theorem State.setI_v (w : Word) : (s.setI w).v = s.v := rfl
@[simp] theorem State.setI_i (w : Word) : (s.setI w).i = w := rfl
@[simp] theorem State.setI_pc (w : Word) : (s.setI w).pc = s.pc := rfl
@[simp] theorem State.setI_stack (w : Word) : (s.setI w).stack = s.stack := rfl
@[simp] theorem State.setI_sp (w : Word) : (s.setI w).sp = s.sp := rfl
@[simp] theorem State.setI_dt (w : Word) : (s.setI w).dt = s.dt := rfl
@[simp] theorem State.setI_st (w : Word) : (s.setI w).st = s.st := rfl
@[simp] theorem State.setI_mem (w : Word) : (s.setI w).mem = s.mem := rfl
@[simp] theorem State.setI_fb (w : Word) : (s.setI w).fb = s.fb := rfl
@[simp] theorem State.setI_keys (w : Word) : (s.setI w).keys = s.keys := rfl
@[simp] theorem State.setI_run (w : Word) : (s.setI w).run = s.run := rfl
@[simp] theorem State.setI_waitReg (w : Word) : (s.setI w).waitReg = s.waitReg := rfl
@[simp] theorem State.setI_hitValid (w : Word) : (s.setI w).hitValid = s.hitValid := rfl
@[simp] theorem State.setI_hitKey (w : Word) : (s.setI w).hitKey = s.hitKey := rfl
@[simp] theorem State.setI_errCause (w : Word) : (s.setI w).errCause = s.errCause := rfl
@[simp] theorem State.setI_errAddr (w : Word) : (s.setI w).errAddr = s.errAddr := rfl
@[simp] theorem State.setI_errWord (w : Word) : (s.setI w).errWord = s.errWord := rfl
@[simp] theorem State.setI_cfg (w : Word) : (s.setI w).cfg = s.cfg := rfl
@[simp] theorem State.setI_inputs (w : Word) : (s.setI w).inputs = s.inputs := rfl
@[simp] theorem State.setI_rnd (w : Word) : (s.setI w).rnd = s.rnd := rfl
@[simp] theorem State.setI_draws (w : Word) : (s.setI w).draws = s.draws := rfl

/-! `setPc`: writes `pc`. -/

@[simp] theorem State.setPc_v (w : Word) : (s.setPc w).v = s.v := rfl
@[simp] theorem State.setPc_i (w : Word) : (s.setPc w).i = s.i := rfl
@[simp] theorem State.setPc_pc (w : Word) : (s.setPc w).pc = w := rfl
@[simp] theorem State.setPc_stack (w : Word) : (s.setPc w).stack = s.stack := rfl
@[simp] theorem State.setPc_sp (w : Word) : (s.setPc w).sp = s.sp := rfl
@[simp] theorem State.setPc_dt (w : Word) : (s.setPc w).dt = s.dt := rfl
@[simp] theorem State.setPc_st (w : Word) : (s.setPc w).st = s.st := rfl
@[simp] theorem State.setPc_mem (w : Word) : (s.setPc w).mem = s.mem := rfl
@[simp] theorem State.setPc_fb (w : Word) : (s.setPc w).fb = s.fb := rfl
@[simp] theorem State.setPc_keys (w : Word) : (s.setPc w).keys = s.keys := rfl
@[simp] theorem State.setPc_run (w : Word) : (s.setPc w).run = s.run := rfl
@[simp] theorem State.setPc_waitReg (w : Word) : (s.setPc w).waitReg = s.waitReg := rfl
@[simp] theorem State.setPc_hitValid (w : Word) : (s.setPc w).hitValid = s.hitValid := rfl
@[simp] theorem State.setPc_hitKey (w : Word) : (s.setPc w).hitKey = s.hitKey := rfl
@[simp] theorem State.setPc_errCause (w : Word) : (s.setPc w).errCause = s.errCause := rfl
@[simp] theorem State.setPc_errAddr (w : Word) : (s.setPc w).errAddr = s.errAddr := rfl
@[simp] theorem State.setPc_errWord (w : Word) : (s.setPc w).errWord = s.errWord := rfl
@[simp] theorem State.setPc_cfg (w : Word) : (s.setPc w).cfg = s.cfg := rfl
@[simp] theorem State.setPc_inputs (w : Word) : (s.setPc w).inputs = s.inputs := rfl
@[simp] theorem State.setPc_rnd (w : Word) : (s.setPc w).rnd = s.rnd := rfl
@[simp] theorem State.setPc_draws (w : Word) : (s.setPc w).draws = s.draws := rfl

/-! `setDt`: writes `dt`. -/

@[simp] theorem State.setDt_v (b : Byte) : (s.setDt b).v = s.v := rfl
@[simp] theorem State.setDt_i (b : Byte) : (s.setDt b).i = s.i := rfl
@[simp] theorem State.setDt_pc (b : Byte) : (s.setDt b).pc = s.pc := rfl
@[simp] theorem State.setDt_stack (b : Byte) : (s.setDt b).stack = s.stack := rfl
@[simp] theorem State.setDt_sp (b : Byte) : (s.setDt b).sp = s.sp := rfl
@[simp] theorem State.setDt_dt (b : Byte) : (s.setDt b).dt = b := rfl
@[simp] theorem State.setDt_st (b : Byte) : (s.setDt b).st = s.st := rfl
@[simp] theorem State.setDt_mem (b : Byte) : (s.setDt b).mem = s.mem := rfl
@[simp] theorem State.setDt_fb (b : Byte) : (s.setDt b).fb = s.fb := rfl
@[simp] theorem State.setDt_keys (b : Byte) : (s.setDt b).keys = s.keys := rfl
@[simp] theorem State.setDt_run (b : Byte) : (s.setDt b).run = s.run := rfl
@[simp] theorem State.setDt_waitReg (b : Byte) : (s.setDt b).waitReg = s.waitReg := rfl
@[simp] theorem State.setDt_hitValid (b : Byte) : (s.setDt b).hitValid = s.hitValid := rfl
@[simp] theorem State.setDt_hitKey (b : Byte) : (s.setDt b).hitKey = s.hitKey := rfl
@[simp] theorem State.setDt_errCause (b : Byte) : (s.setDt b).errCause = s.errCause := rfl
@[simp] theorem State.setDt_errAddr (b : Byte) : (s.setDt b).errAddr = s.errAddr := rfl
@[simp] theorem State.setDt_errWord (b : Byte) : (s.setDt b).errWord = s.errWord := rfl
@[simp] theorem State.setDt_cfg (b : Byte) : (s.setDt b).cfg = s.cfg := rfl
@[simp] theorem State.setDt_inputs (b : Byte) : (s.setDt b).inputs = s.inputs := rfl
@[simp] theorem State.setDt_rnd (b : Byte) : (s.setDt b).rnd = s.rnd := rfl
@[simp] theorem State.setDt_draws (b : Byte) : (s.setDt b).draws = s.draws := rfl

/-! `setSt`: writes `st`. -/

@[simp] theorem State.setSt_v (b : Byte) : (s.setSt b).v = s.v := rfl
@[simp] theorem State.setSt_i (b : Byte) : (s.setSt b).i = s.i := rfl
@[simp] theorem State.setSt_pc (b : Byte) : (s.setSt b).pc = s.pc := rfl
@[simp] theorem State.setSt_stack (b : Byte) : (s.setSt b).stack = s.stack := rfl
@[simp] theorem State.setSt_sp (b : Byte) : (s.setSt b).sp = s.sp := rfl
@[simp] theorem State.setSt_dt (b : Byte) : (s.setSt b).dt = s.dt := rfl
@[simp] theorem State.setSt_st (b : Byte) : (s.setSt b).st = b := rfl
@[simp] theorem State.setSt_mem (b : Byte) : (s.setSt b).mem = s.mem := rfl
@[simp] theorem State.setSt_fb (b : Byte) : (s.setSt b).fb = s.fb := rfl
@[simp] theorem State.setSt_keys (b : Byte) : (s.setSt b).keys = s.keys := rfl
@[simp] theorem State.setSt_run (b : Byte) : (s.setSt b).run = s.run := rfl
@[simp] theorem State.setSt_waitReg (b : Byte) : (s.setSt b).waitReg = s.waitReg := rfl
@[simp] theorem State.setSt_hitValid (b : Byte) : (s.setSt b).hitValid = s.hitValid := rfl
@[simp] theorem State.setSt_hitKey (b : Byte) : (s.setSt b).hitKey = s.hitKey := rfl
@[simp] theorem State.setSt_errCause (b : Byte) : (s.setSt b).errCause = s.errCause := rfl
@[simp] theorem State.setSt_errAddr (b : Byte) : (s.setSt b).errAddr = s.errAddr := rfl
@[simp] theorem State.setSt_errWord (b : Byte) : (s.setSt b).errWord = s.errWord := rfl
@[simp] theorem State.setSt_cfg (b : Byte) : (s.setSt b).cfg = s.cfg := rfl
@[simp] theorem State.setSt_inputs (b : Byte) : (s.setSt b).inputs = s.inputs := rfl
@[simp] theorem State.setSt_rnd (b : Byte) : (s.setSt b).rnd = s.rnd := rfl
@[simp] theorem State.setSt_draws (b : Byte) : (s.setSt b).draws = s.draws := rfl

/-! `setFb`: writes `fb`. -/

@[simp] theorem State.setFb_v (d : Display) : (s.setFb d).v = s.v := rfl
@[simp] theorem State.setFb_i (d : Display) : (s.setFb d).i = s.i := rfl
@[simp] theorem State.setFb_pc (d : Display) : (s.setFb d).pc = s.pc := rfl
@[simp] theorem State.setFb_stack (d : Display) : (s.setFb d).stack = s.stack := rfl
@[simp] theorem State.setFb_sp (d : Display) : (s.setFb d).sp = s.sp := rfl
@[simp] theorem State.setFb_dt (d : Display) : (s.setFb d).dt = s.dt := rfl
@[simp] theorem State.setFb_st (d : Display) : (s.setFb d).st = s.st := rfl
@[simp] theorem State.setFb_mem (d : Display) : (s.setFb d).mem = s.mem := rfl
@[simp] theorem State.setFb_fb (d : Display) : (s.setFb d).fb = d := rfl
@[simp] theorem State.setFb_keys (d : Display) : (s.setFb d).keys = s.keys := rfl
@[simp] theorem State.setFb_run (d : Display) : (s.setFb d).run = s.run := rfl
@[simp] theorem State.setFb_waitReg (d : Display) : (s.setFb d).waitReg = s.waitReg := rfl
@[simp] theorem State.setFb_hitValid (d : Display) : (s.setFb d).hitValid = s.hitValid := rfl
@[simp] theorem State.setFb_hitKey (d : Display) : (s.setFb d).hitKey = s.hitKey := rfl
@[simp] theorem State.setFb_errCause (d : Display) : (s.setFb d).errCause = s.errCause := rfl
@[simp] theorem State.setFb_errAddr (d : Display) : (s.setFb d).errAddr = s.errAddr := rfl
@[simp] theorem State.setFb_errWord (d : Display) : (s.setFb d).errWord = s.errWord := rfl
@[simp] theorem State.setFb_cfg (d : Display) : (s.setFb d).cfg = s.cfg := rfl
@[simp] theorem State.setFb_inputs (d : Display) : (s.setFb d).inputs = s.inputs := rfl
@[simp] theorem State.setFb_rnd (d : Display) : (s.setFb d).rnd = s.rnd := rfl
@[simp] theorem State.setFb_draws (d : Display) : (s.setFb d).draws = s.draws := rfl

/-! `writeBytes`: writes `mem`. -/

@[simp] theorem State.writeBytes_v (a : Nat) (bytes : List Byte) : (s.writeBytes a bytes).v = s.v := rfl
@[simp] theorem State.writeBytes_i (a : Nat) (bytes : List Byte) : (s.writeBytes a bytes).i = s.i := rfl
@[simp] theorem State.writeBytes_pc (a : Nat) (bytes : List Byte) : (s.writeBytes a bytes).pc = s.pc := rfl
@[simp] theorem State.writeBytes_stack (a : Nat) (bytes : List Byte) : (s.writeBytes a bytes).stack = s.stack := rfl
@[simp] theorem State.writeBytes_sp (a : Nat) (bytes : List Byte) : (s.writeBytes a bytes).sp = s.sp := rfl
@[simp] theorem State.writeBytes_dt (a : Nat) (bytes : List Byte) : (s.writeBytes a bytes).dt = s.dt := rfl
@[simp] theorem State.writeBytes_st (a : Nat) (bytes : List Byte) : (s.writeBytes a bytes).st = s.st := rfl
@[simp] theorem State.writeBytes_mem (a : Nat) (bytes : List Byte) : (s.writeBytes a bytes).mem = Memory.writeBytes s.mem a bytes := rfl
@[simp] theorem State.writeBytes_fb (a : Nat) (bytes : List Byte) : (s.writeBytes a bytes).fb = s.fb := rfl
@[simp] theorem State.writeBytes_keys (a : Nat) (bytes : List Byte) : (s.writeBytes a bytes).keys = s.keys := rfl
@[simp] theorem State.writeBytes_run (a : Nat) (bytes : List Byte) : (s.writeBytes a bytes).run = s.run := rfl
@[simp] theorem State.writeBytes_waitReg (a : Nat) (bytes : List Byte) : (s.writeBytes a bytes).waitReg = s.waitReg := rfl
@[simp] theorem State.writeBytes_hitValid (a : Nat) (bytes : List Byte) : (s.writeBytes a bytes).hitValid = s.hitValid := rfl
@[simp] theorem State.writeBytes_hitKey (a : Nat) (bytes : List Byte) : (s.writeBytes a bytes).hitKey = s.hitKey := rfl
@[simp] theorem State.writeBytes_errCause (a : Nat) (bytes : List Byte) : (s.writeBytes a bytes).errCause = s.errCause := rfl
@[simp] theorem State.writeBytes_errAddr (a : Nat) (bytes : List Byte) : (s.writeBytes a bytes).errAddr = s.errAddr := rfl
@[simp] theorem State.writeBytes_errWord (a : Nat) (bytes : List Byte) : (s.writeBytes a bytes).errWord = s.errWord := rfl
@[simp] theorem State.writeBytes_cfg (a : Nat) (bytes : List Byte) : (s.writeBytes a bytes).cfg = s.cfg := rfl
@[simp] theorem State.writeBytes_inputs (a : Nat) (bytes : List Byte) : (s.writeBytes a bytes).inputs = s.inputs := rfl
@[simp] theorem State.writeBytes_rnd (a : Nat) (bytes : List Byte) : (s.writeBytes a bytes).rnd = s.rnd := rfl
@[simp] theorem State.writeBytes_draws (a : Nat) (bytes : List Byte) : (s.writeBytes a bytes).draws = s.draws := rfl

/-! `raise`: writes the halt record and `run`. -/

@[simp] theorem State.raise_v (k : FaultKind) (w : Word) : (s.raise k w).v = s.v := rfl
@[simp] theorem State.raise_i (k : FaultKind) (w : Word) : (s.raise k w).i = s.i := rfl
@[simp] theorem State.raise_pc (k : FaultKind) (w : Word) : (s.raise k w).pc = s.pc := rfl
@[simp] theorem State.raise_stack (k : FaultKind) (w : Word) : (s.raise k w).stack = s.stack := rfl
@[simp] theorem State.raise_sp (k : FaultKind) (w : Word) : (s.raise k w).sp = s.sp := rfl
@[simp] theorem State.raise_dt (k : FaultKind) (w : Word) : (s.raise k w).dt = s.dt := rfl
@[simp] theorem State.raise_st (k : FaultKind) (w : Word) : (s.raise k w).st = s.st := rfl
@[simp] theorem State.raise_mem (k : FaultKind) (w : Word) : (s.raise k w).mem = s.mem := rfl
@[simp] theorem State.raise_fb (k : FaultKind) (w : Word) : (s.raise k w).fb = s.fb := rfl
@[simp] theorem State.raise_keys (k : FaultKind) (w : Word) : (s.raise k w).keys = s.keys := rfl
@[simp] theorem State.raise_run (k : FaultKind) (w : Word) : (s.raise k w).run = .halted := rfl
@[simp] theorem State.raise_waitReg (k : FaultKind) (w : Word) : (s.raise k w).waitReg = s.waitReg := rfl
@[simp] theorem State.raise_hitValid (k : FaultKind) (w : Word) : (s.raise k w).hitValid = s.hitValid := rfl
@[simp] theorem State.raise_hitKey (k : FaultKind) (w : Word) : (s.raise k w).hitKey = s.hitKey := rfl
@[simp] theorem State.raise_errCause (k : FaultKind) (w : Word) : (s.raise k w).errCause = some k := rfl
@[simp] theorem State.raise_errAddr (k : FaultKind) (w : Word) : (s.raise k w).errAddr = s.pc - 2 := rfl
@[simp] theorem State.raise_errWord (k : FaultKind) (w : Word) : (s.raise k w).errWord = w := rfl
@[simp] theorem State.raise_cfg (k : FaultKind) (w : Word) : (s.raise k w).cfg = s.cfg := rfl
@[simp] theorem State.raise_inputs (k : FaultKind) (w : Word) : (s.raise k w).inputs = s.inputs := rfl
@[simp] theorem State.raise_rnd (k : FaultKind) (w : Word) : (s.raise k w).rnd = s.rnd := rfl
@[simp] theorem State.raise_draws (k : FaultKind) (w : Word) : (s.raise k w).draws = s.draws := rfl

/-! `beginWait`: writes `waitReg`, `hitValid` and `run`. -/

@[simp] theorem State.beginWait_v (x : Reg) : (s.beginWait x).v = s.v := rfl
@[simp] theorem State.beginWait_i (x : Reg) : (s.beginWait x).i = s.i := rfl
@[simp] theorem State.beginWait_pc (x : Reg) : (s.beginWait x).pc = s.pc := rfl
@[simp] theorem State.beginWait_stack (x : Reg) : (s.beginWait x).stack = s.stack := rfl
@[simp] theorem State.beginWait_sp (x : Reg) : (s.beginWait x).sp = s.sp := rfl
@[simp] theorem State.beginWait_dt (x : Reg) : (s.beginWait x).dt = s.dt := rfl
@[simp] theorem State.beginWait_st (x : Reg) : (s.beginWait x).st = s.st := rfl
@[simp] theorem State.beginWait_mem (x : Reg) : (s.beginWait x).mem = s.mem := rfl
@[simp] theorem State.beginWait_fb (x : Reg) : (s.beginWait x).fb = s.fb := rfl
@[simp] theorem State.beginWait_keys (x : Reg) : (s.beginWait x).keys = s.keys := rfl
@[simp] theorem State.beginWait_run (x : Reg) : (s.beginWait x).run = .waitKey := rfl
@[simp] theorem State.beginWait_waitReg (x : Reg) : (s.beginWait x).waitReg = x := rfl
@[simp] theorem State.beginWait_hitValid (x : Reg) : (s.beginWait x).hitValid = false := rfl
@[simp] theorem State.beginWait_hitKey (x : Reg) : (s.beginWait x).hitKey = s.hitKey := rfl
@[simp] theorem State.beginWait_errCause (x : Reg) : (s.beginWait x).errCause = s.errCause := rfl
@[simp] theorem State.beginWait_errAddr (x : Reg) : (s.beginWait x).errAddr = s.errAddr := rfl
@[simp] theorem State.beginWait_errWord (x : Reg) : (s.beginWait x).errWord = s.errWord := rfl
@[simp] theorem State.beginWait_cfg (x : Reg) : (s.beginWait x).cfg = s.cfg := rfl
@[simp] theorem State.beginWait_inputs (x : Reg) : (s.beginWait x).inputs = s.inputs := rfl
@[simp] theorem State.beginWait_rnd (x : Reg) : (s.beginWait x).rnd = s.rnd := rfl
@[simp] theorem State.beginWait_draws (x : Reg) : (s.beginWait x).draws = s.draws := rfl

/-! `endWait`: writes `v`, `hitValid` and `run`. -/

@[simp] theorem State.endWait_v : (s.endWait).v = s.v.set s.waitReg.val (BitVec.ofNat 8 s.hitKey.val) s.waitReg.isLt := rfl
@[simp] theorem State.endWait_i : (s.endWait).i = s.i := rfl
@[simp] theorem State.endWait_pc : (s.endWait).pc = s.pc := rfl
@[simp] theorem State.endWait_stack : (s.endWait).stack = s.stack := rfl
@[simp] theorem State.endWait_sp : (s.endWait).sp = s.sp := rfl
@[simp] theorem State.endWait_dt : (s.endWait).dt = s.dt := rfl
@[simp] theorem State.endWait_st : (s.endWait).st = s.st := rfl
@[simp] theorem State.endWait_mem : (s.endWait).mem = s.mem := rfl
@[simp] theorem State.endWait_fb : (s.endWait).fb = s.fb := rfl
@[simp] theorem State.endWait_keys : (s.endWait).keys = s.keys := rfl
@[simp] theorem State.endWait_run : (s.endWait).run = .running := rfl
@[simp] theorem State.endWait_waitReg : (s.endWait).waitReg = s.waitReg := rfl
@[simp] theorem State.endWait_hitValid : (s.endWait).hitValid = false := rfl
@[simp] theorem State.endWait_hitKey : (s.endWait).hitKey = s.hitKey := rfl
@[simp] theorem State.endWait_errCause : (s.endWait).errCause = s.errCause := rfl
@[simp] theorem State.endWait_errAddr : (s.endWait).errAddr = s.errAddr := rfl
@[simp] theorem State.endWait_errWord : (s.endWait).errWord = s.errWord := rfl
@[simp] theorem State.endWait_cfg : (s.endWait).cfg = s.cfg := rfl
@[simp] theorem State.endWait_inputs : (s.endWait).inputs = s.inputs := rfl
@[simp] theorem State.endWait_rnd : (s.endWait).rnd = s.rnd := rfl
@[simp] theorem State.endWait_draws : (s.endWait).draws = s.draws := rfl

/-! `advance`: writes `pc` and `rnd`. -/

@[simp] theorem State.advance_v (rnd : Byte) : (s.advance rnd).v = s.v := rfl
@[simp] theorem State.advance_i (rnd : Byte) : (s.advance rnd).i = s.i := rfl
@[simp] theorem State.advance_pc (rnd : Byte) : (s.advance rnd).pc = s.pc + 2 := rfl
@[simp] theorem State.advance_stack (rnd : Byte) : (s.advance rnd).stack = s.stack := rfl
@[simp] theorem State.advance_sp (rnd : Byte) : (s.advance rnd).sp = s.sp := rfl
@[simp] theorem State.advance_dt (rnd : Byte) : (s.advance rnd).dt = s.dt := rfl
@[simp] theorem State.advance_st (rnd : Byte) : (s.advance rnd).st = s.st := rfl
@[simp] theorem State.advance_mem (rnd : Byte) : (s.advance rnd).mem = s.mem := rfl
@[simp] theorem State.advance_fb (rnd : Byte) : (s.advance rnd).fb = s.fb := rfl
@[simp] theorem State.advance_keys (rnd : Byte) : (s.advance rnd).keys = s.keys := rfl
@[simp] theorem State.advance_run (rnd : Byte) : (s.advance rnd).run = s.run := rfl
@[simp] theorem State.advance_waitReg (rnd : Byte) : (s.advance rnd).waitReg = s.waitReg := rfl
@[simp] theorem State.advance_hitValid (rnd : Byte) : (s.advance rnd).hitValid = s.hitValid := rfl
@[simp] theorem State.advance_hitKey (rnd : Byte) : (s.advance rnd).hitKey = s.hitKey := rfl
@[simp] theorem State.advance_errCause (rnd : Byte) : (s.advance rnd).errCause = s.errCause := rfl
@[simp] theorem State.advance_errAddr (rnd : Byte) : (s.advance rnd).errAddr = s.errAddr := rfl
@[simp] theorem State.advance_errWord (rnd : Byte) : (s.advance rnd).errWord = s.errWord := rfl
@[simp] theorem State.advance_cfg (rnd : Byte) : (s.advance rnd).cfg = s.cfg := rfl
@[simp] theorem State.advance_inputs (rnd : Byte) : (s.advance rnd).inputs = s.inputs := rfl
@[simp] theorem State.advance_rnd (rnd : Byte) : (s.advance rnd).rnd = rnd := rfl
@[simp] theorem State.advance_draws (rnd : Byte) : (s.advance rnd).draws = s.draws := rfl

/-! `timerTick`: writes `dt` and `st`. -/

@[simp] theorem State.timerTick_v : (s.timerTick).v = s.v := rfl
@[simp] theorem State.timerTick_i : (s.timerTick).i = s.i := rfl
@[simp] theorem State.timerTick_pc : (s.timerTick).pc = s.pc := rfl
@[simp] theorem State.timerTick_stack : (s.timerTick).stack = s.stack := rfl
@[simp] theorem State.timerTick_sp : (s.timerTick).sp = s.sp := rfl
@[simp] theorem State.timerTick_dt : (s.timerTick).dt = countDown s.dt := rfl
@[simp] theorem State.timerTick_st : (s.timerTick).st = countDown s.st := rfl
@[simp] theorem State.timerTick_mem : (s.timerTick).mem = s.mem := rfl
@[simp] theorem State.timerTick_fb : (s.timerTick).fb = s.fb := rfl
@[simp] theorem State.timerTick_keys : (s.timerTick).keys = s.keys := rfl
@[simp] theorem State.timerTick_run : (s.timerTick).run = s.run := rfl
@[simp] theorem State.timerTick_waitReg : (s.timerTick).waitReg = s.waitReg := rfl
@[simp] theorem State.timerTick_hitValid : (s.timerTick).hitValid = s.hitValid := rfl
@[simp] theorem State.timerTick_hitKey : (s.timerTick).hitKey = s.hitKey := rfl
@[simp] theorem State.timerTick_errCause : (s.timerTick).errCause = s.errCause := rfl
@[simp] theorem State.timerTick_errAddr : (s.timerTick).errAddr = s.errAddr := rfl
@[simp] theorem State.timerTick_errWord : (s.timerTick).errWord = s.errWord := rfl
@[simp] theorem State.timerTick_cfg : (s.timerTick).cfg = s.cfg := rfl
@[simp] theorem State.timerTick_inputs : (s.timerTick).inputs = s.inputs := rfl
@[simp] theorem State.timerTick_rnd : (s.timerTick).rnd = s.rnd := rfl
@[simp] theorem State.timerTick_draws : (s.timerTick).draws = s.draws := rfl

/-! `setResultFlag`: writes `v`. -/

@[simp] theorem State.setResultFlag_v (x : Reg) (b : Byte) (f : Bool) : (s.setResultFlag x b f).v = (s.v.set x.val b x.isLt).set VF.val (flagByte f) VF.isLt := rfl
@[simp] theorem State.setResultFlag_i (x : Reg) (b : Byte) (f : Bool) : (s.setResultFlag x b f).i = s.i := rfl
@[simp] theorem State.setResultFlag_pc (x : Reg) (b : Byte) (f : Bool) : (s.setResultFlag x b f).pc = s.pc := rfl
@[simp] theorem State.setResultFlag_stack (x : Reg) (b : Byte) (f : Bool) : (s.setResultFlag x b f).stack = s.stack := rfl
@[simp] theorem State.setResultFlag_sp (x : Reg) (b : Byte) (f : Bool) : (s.setResultFlag x b f).sp = s.sp := rfl
@[simp] theorem State.setResultFlag_dt (x : Reg) (b : Byte) (f : Bool) : (s.setResultFlag x b f).dt = s.dt := rfl
@[simp] theorem State.setResultFlag_st (x : Reg) (b : Byte) (f : Bool) : (s.setResultFlag x b f).st = s.st := rfl
@[simp] theorem State.setResultFlag_mem (x : Reg) (b : Byte) (f : Bool) : (s.setResultFlag x b f).mem = s.mem := rfl
@[simp] theorem State.setResultFlag_fb (x : Reg) (b : Byte) (f : Bool) : (s.setResultFlag x b f).fb = s.fb := rfl
@[simp] theorem State.setResultFlag_keys (x : Reg) (b : Byte) (f : Bool) : (s.setResultFlag x b f).keys = s.keys := rfl
@[simp] theorem State.setResultFlag_run (x : Reg) (b : Byte) (f : Bool) : (s.setResultFlag x b f).run = s.run := rfl
@[simp] theorem State.setResultFlag_waitReg (x : Reg) (b : Byte) (f : Bool) : (s.setResultFlag x b f).waitReg = s.waitReg := rfl
@[simp] theorem State.setResultFlag_hitValid (x : Reg) (b : Byte) (f : Bool) : (s.setResultFlag x b f).hitValid = s.hitValid := rfl
@[simp] theorem State.setResultFlag_hitKey (x : Reg) (b : Byte) (f : Bool) : (s.setResultFlag x b f).hitKey = s.hitKey := rfl
@[simp] theorem State.setResultFlag_errCause (x : Reg) (b : Byte) (f : Bool) : (s.setResultFlag x b f).errCause = s.errCause := rfl
@[simp] theorem State.setResultFlag_errAddr (x : Reg) (b : Byte) (f : Bool) : (s.setResultFlag x b f).errAddr = s.errAddr := rfl
@[simp] theorem State.setResultFlag_errWord (x : Reg) (b : Byte) (f : Bool) : (s.setResultFlag x b f).errWord = s.errWord := rfl
@[simp] theorem State.setResultFlag_cfg (x : Reg) (b : Byte) (f : Bool) : (s.setResultFlag x b f).cfg = s.cfg := rfl
@[simp] theorem State.setResultFlag_inputs (x : Reg) (b : Byte) (f : Bool) : (s.setResultFlag x b f).inputs = s.inputs := rfl
@[simp] theorem State.setResultFlag_rnd (x : Reg) (b : Byte) (f : Bool) : (s.setResultFlag x b f).rnd = s.rnd := rfl
@[simp] theorem State.setResultFlag_draws (x : Reg) (b : Byte) (f : Bool) : (s.setResultFlag x b f).draws = s.draws := rfl

/-! `skipIf`: writes `pc`, or nothing. -/

@[simp] theorem State.skipIf_v (b : Bool) : (s.skipIf b).v = s.v := by cases b <;> rfl
@[simp] theorem State.skipIf_i (b : Bool) : (s.skipIf b).i = s.i := by cases b <;> rfl
@[simp] theorem State.skipIf_pc (b : Bool) : (s.skipIf b).pc = if b then s.pc + 2 else s.pc := by cases b <;> rfl
@[simp] theorem State.skipIf_stack (b : Bool) : (s.skipIf b).stack = s.stack := by cases b <;> rfl
@[simp] theorem State.skipIf_sp (b : Bool) : (s.skipIf b).sp = s.sp := by cases b <;> rfl
@[simp] theorem State.skipIf_dt (b : Bool) : (s.skipIf b).dt = s.dt := by cases b <;> rfl
@[simp] theorem State.skipIf_st (b : Bool) : (s.skipIf b).st = s.st := by cases b <;> rfl
@[simp] theorem State.skipIf_mem (b : Bool) : (s.skipIf b).mem = s.mem := by cases b <;> rfl
@[simp] theorem State.skipIf_fb (b : Bool) : (s.skipIf b).fb = s.fb := by cases b <;> rfl
@[simp] theorem State.skipIf_keys (b : Bool) : (s.skipIf b).keys = s.keys := by cases b <;> rfl
@[simp] theorem State.skipIf_run (b : Bool) : (s.skipIf b).run = s.run := by cases b <;> rfl
@[simp] theorem State.skipIf_waitReg (b : Bool) : (s.skipIf b).waitReg = s.waitReg := by cases b <;> rfl
@[simp] theorem State.skipIf_hitValid (b : Bool) : (s.skipIf b).hitValid = s.hitValid := by cases b <;> rfl
@[simp] theorem State.skipIf_hitKey (b : Bool) : (s.skipIf b).hitKey = s.hitKey := by cases b <;> rfl
@[simp] theorem State.skipIf_errCause (b : Bool) : (s.skipIf b).errCause = s.errCause := by cases b <;> rfl
@[simp] theorem State.skipIf_errAddr (b : Bool) : (s.skipIf b).errAddr = s.errAddr := by cases b <;> rfl
@[simp] theorem State.skipIf_errWord (b : Bool) : (s.skipIf b).errWord = s.errWord := by cases b <;> rfl
@[simp] theorem State.skipIf_cfg (b : Bool) : (s.skipIf b).cfg = s.cfg := by cases b <;> rfl
@[simp] theorem State.skipIf_inputs (b : Bool) : (s.skipIf b).inputs = s.inputs := by cases b <;> rfl
@[simp] theorem State.skipIf_rnd (b : Bool) : (s.skipIf b).rnd = s.rnd := by cases b <;> rfl
@[simp] theorem State.skipIf_draws (b : Bool) : (s.skipIf b).draws = s.draws := by cases b <;> rfl

/-- A conditional skip writes `PC` alone. -/
theorem State.skipIf_eq (b : Bool) : s.skipIf b = s.setPc (if b then s.pc + 2 else s.pc) := by cases b <;> rfl

end Updates

/-! Reads after writes. -/

/-- Every register holds what was last written to it, and the others are left alone. -/
theorem State.getV_setV (s : State) (r q : Reg) (b : Byte) : (s.setV r b).getV q = if q = r then b else s.getV q := by
  simp only [State.getV, State.setV, Fin.getElem_fin, Vector.getElem_set, Fin.ext_iff, eq_comm]

@[simp] theorem State.getV_setV_same (s : State) (r : Reg) (b : Byte) : (s.setV r b).getV r = b := by simp [State.getV_setV]

/-- Flag and result after a flag-writing instruction: the flag is written last, so it stays when `x` is VF. -/
theorem State.getV_setResultFlag (s : State) (x q : Reg) (b : Byte) (f : Bool) :
    (s.setResultFlag x b f).getV q = if q = VF then flagByte f else if q = x then b else s.getV q := by
  simp only [State.setResultFlag, State.getV_setV]

/-- A state's memory reads through its list. -/
theorem State.readByte_congr {s t : State} (h : t.mem = s.mem) (a : Nat) : t.readByte a = s.readByte a := by
  rw [State.readByte, State.readByte, h]

end Sys2Proof.Machine
end

