-- ==== Sys2Proof/Laws/Operations.lean ====
section
/-! SUPPORT. What each shared operation can do, said once: the call stack, the display, the jump, the key wait, the events, and the
shape of a step. -/

namespace Sys2Proof.Machine

/-! ### The call stack -/

/-- A push on a stack that is not full: the slot at `SP` takes the value and `SP` counts it (10_state.md R29). -/
theorem State.push_of_lt (s : State) (w : Word) (h : s.sp.val < 16) :
    s.push w = some { s with stack := s.stack.set s.sp.val w h, sp := ⟨s.sp.val + 1, by omega⟩ } := by
  rw [State.push, dif_pos h]

/-- A push on a full stack fails. -/
theorem State.push_full (s : State) (w : Word) (h : s.sp.val = 16) : s.push w = none := by
  rw [State.push, dif_neg (by omega)]

/-- All a push can do. -/
theorem State.push_cases {s t : State} {w : Word} (h : s.push w = some t) :
    ∃ hs : s.sp.val < 16, t = { s with stack := s.stack.set s.sp.val w hs, sp := ⟨s.sp.val + 1, by omega⟩ } := by
  unfold State.push at h
  split at h
  · rename_i hs
    exact ⟨hs, (Option.some.inj h).symm⟩
  · cases h

/-- A pop of a stack that is not empty: the slot below `SP` is read and kept, and `SP` goes down (10_state.md R29). -/
theorem State.pop_of_pos (s : State) (h : 0 < s.sp.val) :
    s.pop = some (s.stack[s.sp.val - 1]'(by omega), { s with sp := ⟨s.sp.val - 1, by omega⟩ }) := by
  rw [State.pop, dif_neg (by omega)]

/-- A pop of an empty stack fails. -/
theorem State.pop_empty (s : State) (h : s.sp.val = 0) : s.pop = none := by rw [State.pop, dif_pos h]

/-- All a pop can do. -/
theorem State.pop_cases {s t : State} {w : Word} (h : s.pop = some (w, t)) :
    ∃ hs : 0 < s.sp.val, w = s.stack[s.sp.val - 1]'(by omega) ∧ t = { s with sp := ⟨s.sp.val - 1, by omega⟩ } := by
  unfold State.pop at h
  split at h
  · cases h
  · obtain ⟨rfl, rfl⟩ := Prod.mk.inj (Option.some.inj h)
    exact ⟨by omega, rfl, rfl⟩

/-! ### The display -/

@[simp] theorem Display.pixel_mod (d : Display) (px py : Nat) : d.pixel (px % 64) (py % 32) = d.pixel px py := by
  simp only [Display.pixel, Nat.mod_mod]

/-- A flip changes one pixel and no other. -/
theorem Display.pixel_flip (d : Display) (px py qx qy : Nat) :
    (d.flip px py).pixel qx qy = if qx % 64 = px % 64 ∧ qy % 32 = py % 32 then !d.pixel px py else d.pixel qx qy := by
  simp only [Display.flip, Display.pixel, Vector.getElem_set]
  by_cases hy : py % 32 = qy % 32
  · by_cases hx : px % 64 = qx % 64
    · simp [hx, hy]
    · simp [hx, hy, Ne.symm hx]
  · simp [hy, Ne.symm hy]

/-- Displays with the same pixels are the same. -/
theorem Display.ext_pixel {d e : Display} (h : ∀ px py, px < 64 → py < 32 → d.pixel px py = e.pixel px py) : d = e := by
  apply Vector.ext
  intro r hr
  apply Vector.ext
  intro c hc
  have := h c r hc hr
  simpa only [Display.pixel, Nat.mod_eq_of_lt hc, Nat.mod_eq_of_lt hr] using this

@[simp] theorem Display.pixel_blank (px py : Nat) : Display.blank.pixel px py = false := by
  simp [Display.blank, Display.pixel]

/-! ### Jumps -/

theorem validTarget_iff (t : Nat) : validTarget t = true ↔ t ≤ 0xFFF ∧ t % 2 = 0 := by simp [validTarget]

/-- All a jump can do: go to a valid target, or halt with `OutOfRangeJump` (40_step_and_control_flow.md R129). -/
theorem jumpTo_cases (t : Nat) (w : Word) (s : State) :
    (t ≤ 0xFFF ∧ t % 2 = 0 ∧ jumpTo t w s = s.setPc (BitVec.ofNat 16 t)) ∨
    (¬(t ≤ 0xFFF ∧ t % 2 = 0) ∧ jumpTo t w s = s.raise .outOfRangeJump w) := by
  unfold jumpTo
  split
  · rename_i h
    exact .inl ⟨((validTarget_iff t).1 h).1, ((validTarget_iff t).1 h).2, rfl⟩
  · rename_i h
    exact .inr ⟨fun h' => h ((validTarget_iff t).2 h'), rfl⟩

/-! ### Events -/

/-- A tick takes one from a counter and stops at 0 (60_exceptions.md R245). -/
theorem countDown_toNat (b : Byte) : (countDown b).toNat = b.toNat - 1 := by
  unfold countDown
  split
  · subst_vars; rfl
  · bv_omega

/-- All a key event can do (60_exceptions.md R248). -/
theorem State.keyEvent_eq (s : State) (k : Key) (p : Bool) :
    s.keyEvent k p =
      { s with
        keys := s.keys.set k.val p k.isLt
        hitKey := if s.latches k p then k else s.hitKey
        hitValid := if s.latches k p then true else s.hitValid } := by
  unfold State.keyEvent
  cases s.latches k p <;> rfl

/-- All a power-on can do (70_reset_and_hazards.md R270). -/
theorem powerOn_cases {cfg : Cfg} {rom : List Byte} {s t : State} (h : powerOn cfg rom s = .next t) :
    rom.length ≤ romMax ∧ cfg.wf ∧ t = s.poweredOn cfg rom := by
  unfold powerOn at h
  split at h
  · cases h
  · split at h
    · cases h
      exact ⟨by omega, ‹_›, rfl⟩
    · cases h

/-! ### A step -/

theorem step_nil {s : State} (h : s.inputs = []) :
    step s = cpuStep (Config.freeDraw s.draws) { s with draws := s.draws + 1 } := by
  simp only [step, State.takeInput, h, transition]

theorem step_cons {s : State} {e : Input} {rest : List Input} (h : s.inputs = e :: rest) :
    step s = transition e { s with inputs := rest } := by
  simp only [step, State.takeInput, h]

theorem cpuStep_running {s : State} (h : s.run = .running) (rnd : Byte) :
    cpuStep rnd s = executeWord s.fetchWord (s.advance rnd) := by
  simp only [cpuStep, h]

theorem cpuStep_waitKey {s : State} (h : s.run = .waitKey) (rnd : Byte) : cpuStep rnd s = .next s.pollWait := by
  simp only [cpuStep, h]

theorem cpuStep_halted {s : State} (h : s.run = .halted) (rnd : Byte) : cpuStep rnd s = .next s := by
  simp only [cpuStep, h]

theorem executeWord_ok {w : Word} {i : Instr} (h : decode w = .ok i) (s : State) : executeWord w s = exec i s := by
  simp only [executeWord, h]

theorem executeWord_error {w : Word} {e : DecodeError} (h : decode w = .error e) (s : State) :
    executeWord w s = .next (s.raise .unknownOpcode w) := by
  simp only [executeWord, h]

/-! ### A run -/

@[simp] theorem runFor_zero (s : State) : runFor 0 s = .next s := rfl

/-- One more step in front of a run. -/
theorem runFor_succ {s t : State} (h : step s = .next t) (n : Nat) : runFor (n + 1) s = runFor n t := by
  simp only [runFor, h]

/-- `runFor` is the host's `run`. -/
theorem core_run (n : Nat) (s : State) : Sys2Proof.core.run n s = runFor n s := by
  induction n generalizing s with
  | zero => rfl
  | succ n ih =>
    cases h : step s with
    | next t =>
      have hc : Sys2Proof.core.step s = .next t := h
      simp only [Host.Core.run, hc, runFor, h]
      exact ih t
    | fault f =>
      have hc : Sys2Proof.core.step s = .fault f := h
      simp only [Host.Core.run, hc, runFor, h]
      rfl
    | refused r =>
      have hc : Sys2Proof.core.step s = .refused r := h
      simp only [Host.Core.run, hc, runFor, h]
      rfl

end Sys2Proof.Machine
end

