-- ==== Sys2Proof/Laws/Display.lean ====
section
/-! SUPPORT. What drawing a sprite does to the display: which pixels are flipped and when a collision is reported (43_display.md
R202). -/

namespace Sys2Proof.Machine

/-- The sprite row has a 1 for column `qx` among its first `n` pixels. -/
abbrev rowSets (cx : Nat) (row : Byte) (n qx : Nat) : Prop := ∃ c < n, (cx + c) % 64 = qx % 64 ∧ row.getLsbD (7 - c) = true

/-- The sprite has a 1 for the pixel (qx, qy). -/
abbrev spriteCovers (cx cy : Nat) (rows : List Byte) (qx qy : Nat) : Prop :=
  ∃ r, ∃ hr : r < rows.length, (cy + r) % 32 = qy % 32 ∧ rowSets cx rows[r] 8 qx

theorem rowSets_succ (cx : Nat) (row : Byte) (n qx : Nat) :
    rowSets cx row (n + 1) qx ↔ rowSets cx row n qx ∨ ((cx + n) % 64 = qx % 64 ∧ row.getLsbD (7 - n) = true) := by
  constructor
  · rintro ⟨c, hc, h⟩
    rcases Nat.lt_succ_iff_lt_or_eq.1 hc with h' | rfl
    · exact .inl ⟨c, h', h⟩
    · exact .inr h
  · rintro (⟨c, hc, h⟩ | h)
    · exact ⟨c, by omega, h⟩
    · exact ⟨n, by omega, h⟩

/-- A row's pixels are different pixels: the wrap never brings two of them together. -/
theorem not_rowSets_next {cx : Nat} {row : Byte} {n qx : Nat} (hn : n < 8) (h : (cx + n) % 64 = qx % 64) :
    ¬rowSets cx row n qx := by
  rintro ⟨c, hc, h', -⟩
  omega

/-- The first `n` pixels of a sprite row, drawn from the left. -/
def blitPart (cx py : Nat) (row : Byte) (n : Nat) (b : Blit) : Blit :=
  (List.range n).foldl (fun b c => if row.getLsbD (7 - c) then blitPixel (cx + c) py b else b) b

theorem blitPart_succ (cx py : Nat) (row : Byte) (n : Nat) (b : Blit) :
    blitPart cx py row (n + 1) b =
      if row.getLsbD (7 - n) then blitPixel (cx + n) py (blitPart cx py row n b) else blitPart cx py row n b := by
  simp only [blitPart, List.range_succ, List.foldl_append, List.foldl_cons, List.foldl_nil]

theorem blitRow_eq (cx py : Nat) (row : Byte) (b : Blit) : blitRow cx py row b = blitPart cx py row 8 b := rfl

/-- The pixels a part of a row flips. -/
theorem blitPart_pixel (cx py : Nat) (row : Byte) (b : Blit) {n : Nat} (hn : n ≤ 8) (qx qy : Nat) :
    ((qy % 32 = py % 32 ∧ rowSets cx row n qx) → (blitPart cx py row n b).fb.pixel qx qy = !b.fb.pixel qx qy) ∧
    (¬(qy % 32 = py % 32 ∧ rowSets cx row n qx) → (blitPart cx py row n b).fb.pixel qx qy = b.fb.pixel qx qy) := by
  induction n with
  | zero =>
    refine ⟨?_, fun _ => rfl⟩
    rintro ⟨-, c, hc, -⟩
    omega
  | succ n ih =>
    obtain ⟨ihSet, ihKeep⟩ := ih (by omega)
    rw [blitPart_succ, rowSets_succ]
    by_cases hb : row.getLsbD (7 - n) = true
    · rw [if_pos hb, blitPixel, Display.pixel_flip]
      by_cases hq : qx % 64 = (cx + n) % 64 ∧ qy % 32 = py % 32
      · have hout : ¬(qy % 32 = py % 32 ∧ rowSets cx row n qx) := fun h => not_rowSets_next hn hq.1.symm h.2
        have hpix : (blitPart cx py row n b).fb.pixel (cx + n) py = (blitPart cx py row n b).fb.pixel qx qy := by
          rw [← Display.pixel_mod, ← hq.1, ← hq.2, Display.pixel_mod]
        rw [if_pos hq, hpix, ihKeep hout]
        exact ⟨fun _ => rfl, fun h => absurd ⟨hq.2, .inr ⟨hq.1.symm, hb⟩⟩ h⟩
      · rw [if_neg hq]
        refine ⟨?_, fun h => ihKeep fun h' => h ⟨h'.1, .inl h'.2⟩⟩
        rintro ⟨hy, hs | hs⟩
        · exact ihSet ⟨hy, hs⟩
        · exact absurd ⟨hs.1.symm, hy⟩ hq
    · rw [if_neg hb]
      refine ⟨?_, fun h => ihKeep fun h' => h ⟨h'.1, .inl h'.2⟩⟩
      rintro ⟨hy, hs | hs⟩
      · exact ihSet ⟨hy, hs⟩
      · exact absurd hs.2 hb

/-- When a part of a row collides. -/
theorem blitPart_coll (cx py : Nat) (row : Byte) (b : Blit) {n : Nat} (hn : n ≤ 8) :
    (blitPart cx py row n b).coll = true ↔
      b.coll = true ∨ ∃ c < n, row.getLsbD (7 - c) = true ∧ b.fb.pixel (cx + c) py = true := by
  induction n with
  | zero => simp [blitPart]
  | succ n ih =>
    have hsame : (blitPart cx py row n b).fb.pixel (cx + n) py = b.fb.pixel (cx + n) py :=
      (blitPart_pixel cx py row b (by omega) _ _).2 fun h => not_rowSets_next hn rfl h.2
    rw [blitPart_succ]
    have hsplit : (∃ c < n + 1, row.getLsbD (7 - c) = true ∧ b.fb.pixel (cx + c) py = true) ↔
        (∃ c < n, row.getLsbD (7 - c) = true ∧ b.fb.pixel (cx + c) py = true) ∨
          (row.getLsbD (7 - n) = true ∧ b.fb.pixel (cx + n) py = true) := by
      constructor
      · rintro ⟨c, hc, h⟩
        rcases Nat.lt_succ_iff_lt_or_eq.1 hc with h' | rfl
        · exact .inl ⟨c, h', h⟩
        · exact .inr h
      · rintro (⟨c, hc, h⟩ | h)
        · exact ⟨c, by omega, h⟩
        · exact ⟨n, by omega, h⟩
    rw [hsplit, ← or_assoc, ← ih (by omega)]
    by_cases hb : row.getLsbD (7 - n) = true
    · rw [if_pos hb, blitPixel, Bool.or_eq_true, hsame]
      simp only [hb, true_and]
    · rw [if_neg hb]
      exact (or_iff_left fun h => hb h.1).symm

/-- The pixels a sprite row flips. -/
theorem blitRow_pixel (cx py : Nat) (row : Byte) (b : Blit) (qx qy : Nat) :
    ((qy % 32 = py % 32 ∧ rowSets cx row 8 qx) → (blitRow cx py row b).fb.pixel qx qy = !b.fb.pixel qx qy) ∧
    (¬(qy % 32 = py % 32 ∧ rowSets cx row 8 qx) → (blitRow cx py row b).fb.pixel qx qy = b.fb.pixel qx qy) :=
  blitPart_pixel cx py row b le_rfl qx qy

/-- When a sprite row collides. -/
theorem blitRow_coll (cx py : Nat) (row : Byte) (b : Blit) :
    (blitRow cx py row b).coll = true ↔
      b.coll = true ∨ ∃ c < 8, row.getLsbD (7 - c) = true ∧ b.fb.pixel (cx + c) py = true :=
  blitPart_coll cx py row b le_rfl

theorem spriteCovers_cons (cx cy : Nat) (row : Byte) (rows : List Byte) (qx qy : Nat) :
    spriteCovers cx cy (row :: rows) qx qy ↔
      (qy % 32 = cy % 32 ∧ rowSets cx row 8 qx) ∨ spriteCovers cx (cy + 1) rows qx qy := by
  constructor
  · rintro ⟨r, hr, hy, hs⟩
    cases r with
    | zero => exact .inl ⟨hy.symm, hs⟩
    | succ r => exact .inr ⟨r, by simpa using hr, by omega, hs⟩
  · rintro (⟨hy, hs⟩ | ⟨r, hr, hy, hs⟩)
    · exact ⟨0, by simp, hy.symm, hs⟩
    · exact ⟨r + 1, by simpa using hr, by omega, hs⟩

/-- A sprite's rows are different rows of the display: at most 32 of them, and the wrap brings no two together. -/
theorem not_spriteCovers_next {cx cy : Nat} {rows : List Byte} {qx qy : Nat} (h : rows.length < 32)
    (hy : qy % 32 = cy % 32) : ¬spriteCovers cx (cy + 1) rows qx qy := by
  rintro ⟨r, hr, h', -⟩
  omega

/-- The pixels a sprite flips, and that it keeps every other. -/
theorem blitRows_pixel (cx : Nat) (rows : List Byte) (cy : Nat) (b : Blit) (h : rows.length ≤ 32) (qx qy : Nat) :
    (spriteCovers cx cy rows qx qy → (blitRows cx cy rows b).fb.pixel qx qy = !b.fb.pixel qx qy) ∧
    (¬spriteCovers cx cy rows qx qy → (blitRows cx cy rows b).fb.pixel qx qy = b.fb.pixel qx qy) := by
  induction rows generalizing cy b with
  | nil =>
    refine ⟨?_, fun _ => rfl⟩
    rintro ⟨r, hr, -⟩
    simp at hr
  | cons row rows ih =>
    simp only [List.length_cons] at h
    obtain ⟨ihSet, ihKeep⟩ := ih (cy + 1) (blitRow cx cy row b) (by omega)
    obtain ⟨rowSet, rowKeep⟩ := blitRow_pixel cx cy row b qx qy
    rw [blitRows, spriteCovers_cons]
    by_cases hr : qy % 32 = cy % 32 ∧ rowSets cx row 8 qx
    · rw [ihKeep (not_spriteCovers_next (by omega) hr.1), rowSet hr]
      exact ⟨fun _ => rfl, fun h => absurd (.inl hr) h⟩
    · refine ⟨fun hc => ?_, fun hc => ?_⟩
      · rw [ihSet (hc.resolve_left hr), rowKeep hr]
      · rw [ihKeep fun h => hc (.inr h), rowKeep hr]

/-- A sprite collides exactly when it has a 1 for a pixel that was set. -/
theorem blitRows_coll (cx : Nat) (rows : List Byte) (cy : Nat) (b : Blit) (h : rows.length ≤ 32) :
    (blitRows cx cy rows b).coll = true ↔
      b.coll = true ∨ ∃ qx qy, spriteCovers cx cy rows qx qy ∧ b.fb.pixel qx qy = true := by
  induction rows generalizing cy b with
  | nil => simp [blitRows]
  | cons row rows ih =>
    simp only [List.length_cons] at h
    have keep : ∀ qx qy, spriteCovers cx (cy + 1) rows qx qy → (blitRow cx cy row b).fb.pixel qx qy = b.fb.pixel qx qy :=
      fun qx qy hc => (blitRow_pixel cx cy row b qx qy).2 fun hr => not_spriteCovers_next (by omega) hr.1 hc
    rw [blitRows, ih (cy + 1) _ (by omega), blitRow_coll, or_assoc]
    refine or_congr Iff.rfl ⟨?_, ?_⟩
    · rintro (⟨c, hc, hb, hp⟩ | ⟨qx, qy, hc, hp⟩)
      · exact ⟨cx + c, cy, (spriteCovers_cons ..).2 (.inl ⟨rfl, c, hc, rfl, hb⟩), hp⟩
      · exact ⟨qx, qy, (spriteCovers_cons ..).2 (.inr hc), keep qx qy hc ▸ hp⟩
    · rintro ⟨qx, qy, hc, hp⟩
      rcases (spriteCovers_cons ..).1 hc with ⟨hy, c, hlt, hx, hb⟩ | hc
      · refine .inl ⟨c, hlt, hb, ?_⟩
        rw [← Display.pixel_mod, hx, ← hy, Display.pixel_mod]
        exact hp
      · exact .inr ⟨qx, qy, hc, (keep qx qy hc).trans hp⟩

end Sys2Proof.Machine
end

