-- ==== Sys2Proof/Laws/Encoding.lean ====
section
/-! SUPPORT. Words as numbers: the value of each format, of each field and of each mask of the opcode map, so that a fact about an
encoding is arithmetic. -/

namespace Sys2Proof

/-! ### Fields as quotients and remainders (00_scope.md R13) -/

theorem fieldOp_eq (w : Word) : fieldOp w = w.toNat / 4096 := by
  have := w.isLt
  simp [fieldOp, BitVec.extractLsb'_toNat, Nat.shiftRight_eq_div_pow]
  omega

theorem fieldX_val (w : Word) : (fieldX w).val = w.toNat / 256 % 16 := by
  simp [fieldX, Nat.shiftRight_eq_div_pow]

theorem fieldY_val (w : Word) : (fieldY w).val = w.toNat / 16 % 16 := by
  simp [fieldY, Nat.shiftRight_eq_div_pow]

theorem fieldN_val (w : Word) : (fieldN w).val = w.toNat % 16 := by
  simp [fieldN]

theorem fieldKK_toNat (w : Word) : (fieldKK w).toNat = w.toNat % 256 := by
  simp [fieldKK, BitVec.extractLsb'_toNat]

theorem fieldNNN_toNat (w : Word) : (fieldNNN w).toNat = w.toNat % 4096 := by
  simp [fieldNNN, BitVec.extractLsb'_toNat]

/-! ### Formats as sums (30_encoding.md R92) -/

theorem append_toNat {m n : Nat} (a : BitVec m) (b : BitVec n) : (a ++ b).toNat = a.toNat * 2 ^ n + b.toNat := by
  rw [BitVec.toNat_append, ← Nat.shiftLeft_add_eq_or_of_lt b.isLt, Nat.shiftLeft_eq]

theorem formatA_toNat (op : BitVec 4) (nnn : Addr) : (formatA op nnn).toNat = op.toNat * 4096 + nnn.toNat :=
  append_toNat op nnn

theorem formatI_toNat (op : BitVec 4) (x : Reg) (kk : Byte) :
    (formatI op x kk).toNat = op.toNat * 4096 + x.val * 256 + kk.toNat := by
  refine (append_toNat (op ++ (BitVec.ofFin x : BitVec 4)) kk).trans ?_
  rw [append_toNat]
  simp only [BitVec.toNat_ofFin]
  omega

theorem formatX_toNat (op : BitVec 4) (x : Reg) (ss : Byte) :
    (formatX op x ss).toNat = op.toNat * 4096 + x.val * 256 + ss.toNat := formatI_toNat op x ss

theorem formatR_toNat (op : BitVec 4) (x y : Reg) (n : Fin 16) :
    (formatR op x y n).toNat = op.toNat * 4096 + x.val * 256 + y.val * 16 + n.val := by
  refine (append_toNat (op ++ (BitVec.ofFin x : BitVec 4) ++ (BitVec.ofFin y : BitVec 4)) (BitVec.ofFin n : BitVec 4)).trans ?_
  rw [append_toNat, append_toNat]
  simp only [BitVec.toNat_ofFin]
  omega

theorem wordOfBytes_toNat (hi lo : Byte) : (wordOfBytes hi lo).toNat = hi.toNat * 256 + lo.toNat := append_toNat hi lo

/-! ### Masks (30_encoding.md R95) -/

theorem and_F000_toNat (w : Word) : (w &&& 0xF000#16).toNat = w.toNat / 4096 * 4096 := by
  have h : w &&& 0xF000#16 = (w >>> 12) <<< 12 := by ext i hi; interval_cases i <;> simp
  rw [h]
  simp [Nat.shiftRight_eq_div_pow, Nat.shiftLeft_eq]
  have := w.isLt
  omega

theorem and_F0FF_toNat (w : Word) : (w &&& 0xF0FF#16).toNat = w.toNat / 4096 * 4096 + w.toNat % 256 := by
  have h : w &&& 0xF0FF#16 = (w &&& 0xF000#16) + (w <<< 8) >>> 8 := by
    rw [BitVec.add_eq_or_of_and_eq_zero]
    · ext i hi; interval_cases i <;> simp
    · ext i hi; interval_cases i <;> simp
  rw [h, BitVec.toNat_add, and_F000_toNat]
  simp [Nat.shiftRight_eq_div_pow, Nat.shiftLeft_eq]
  have := w.isLt
  omega

theorem and_F00F_toNat (w : Word) : (w &&& 0xF00F#16).toNat = w.toNat / 4096 * 4096 + w.toNat % 16 := by
  have h : w &&& 0xF00F#16 = (w &&& 0xF000#16) + (w <<< 12) >>> 12 := by
    rw [BitVec.add_eq_or_of_and_eq_zero]
    · ext i hi; interval_cases i <;> simp
    · ext i hi; interval_cases i <;> simp
  rw [h, BitVec.toNat_add, and_F000_toNat]
  simp [Nat.shiftRight_eq_div_pow, Nat.shiftLeft_eq]
  have := w.isLt
  omega

theorem and_FFFF (w : Word) : w &&& 0xFFFF#16 = w := by ext i hi; interval_cases i <;> simp

/-! ### Fields of a formatted word -/

theorem fieldNNN_formatA (op : BitVec 4) (nnn : Addr) : fieldNNN (formatA op nnn) = nnn := by
  apply BitVec.eq_of_toNat_eq
  rw [fieldNNN_toNat, formatA_toNat]
  have := nnn.isLt
  omega

theorem fieldX_formatI (op : BitVec 4) (x : Reg) (kk : Byte) : fieldX (formatI op x kk) = x := by
  apply Fin.ext
  rw [fieldX_val, formatI_toNat]
  have := kk.isLt
  omega

theorem fieldKK_formatI (op : BitVec 4) (x : Reg) (kk : Byte) : fieldKK (formatI op x kk) = kk := by
  apply BitVec.eq_of_toNat_eq
  rw [fieldKK_toNat, formatI_toNat]
  have := kk.isLt
  omega

theorem fieldX_formatX (op : BitVec 4) (x : Reg) (ss : Byte) : fieldX (formatX op x ss) = x := fieldX_formatI op x ss

theorem fieldX_formatR (op : BitVec 4) (x y : Reg) (n : Fin 16) : fieldX (formatR op x y n) = x := by
  apply Fin.ext
  rw [fieldX_val, formatR_toNat]
  omega

theorem fieldY_formatR (op : BitVec 4) (x y : Reg) (n : Fin 16) : fieldY (formatR op x y n) = y := by
  apply Fin.ext
  rw [fieldY_val, formatR_toNat]
  omega

theorem fieldN_formatR (op : BitVec 4) (x y : Reg) (n : Fin 16) : fieldN (formatR op x y n) = n := by
  apply Fin.ext
  rw [fieldN_val, formatR_toNat]
  omega

/-! ### What a mask keeps of a formatted word -/

theorem formatA_and (op : BitVec 4) (nnn : Addr) : formatA op nnn &&& 0xF000#16 = formatA op 0 := by
  apply BitVec.eq_of_toNat_eq
  rw [and_F000_toNat, formatA_toNat, formatA_toNat]
  have := nnn.isLt
  simp
  omega

theorem formatI_and (op : BitVec 4) (x : Reg) (kk : Byte) : formatI op x kk &&& 0xF000#16 = formatA op 0 := by
  apply BitVec.eq_of_toNat_eq
  rw [and_F000_toNat, formatI_toNat, formatA_toNat]
  have := kk.isLt
  simp
  omega

theorem formatX_and (op : BitVec 4) (x : Reg) (ss : Byte) : formatX op x ss &&& 0xF0FF#16 = formatX op 0 ss := by
  apply BitVec.eq_of_toNat_eq
  rw [and_F0FF_toNat, formatX_toNat, formatX_toNat]
  have := ss.isLt
  simp
  omega

theorem formatR_and (op : BitVec 4) (x y : Reg) (n : Fin 16) : formatR op x y n &&& 0xF00F#16 = formatR op 0 0 n := by
  apply BitVec.eq_of_toNat_eq
  rw [and_F00F_toNat, formatR_toNat, formatR_toNat]
  simp
  omega

theorem formatR_and_op (op : BitVec 4) (x y : Reg) (n : Fin 16) : formatR op x y n &&& 0xF000#16 = formatA op 0 := by
  apply BitVec.eq_of_toNat_eq
  rw [and_F000_toNat, formatR_toNat, formatA_toNat]
  simp
  omega

end Sys2Proof
end

