-- ==== Sys2Proof/Laws/Instructions.lean ====
section
/-! SUPPORT. What the operand forms are worth, and all that the instructions with more than one case can do. -/

namespace Sys2Proof.Machine

/-! ### Operand forms -/

theorem State.lowNibble_val (s : State) (x : Reg) : (s.lowNibble x).val = s.v[x].toNat % 16 := by
  simp [State.lowNibble, State.getV]

theorem topNibble_val (nnn : Addr) : (topNibble nnn).val = nnn.toNat / 256 := by
  have := nnn.isLt
  simp [topNibble, Nat.shiftRight_eq_div_pow]
  omega

/-- Under `V0` the offset register is `V[0]` (40_step_and_control_flow.md R130). -/
theorem State.offsetTarget_v0 {s : State} (h : s.cfg.jumpQuirk = .v0) (nnn : Addr) :
    s.offsetTarget nnn = nnn.toNat + (s.getV 0).toNat := by
  simp only [State.offsetTarget, h]

/-- Under `VX` the offset register is the one the literal's top nibble names (40_step_and_control_flow.md R130). -/
theorem State.offsetTarget_vx {s : State} (h : s.cfg.jumpQuirk = .vx) (nnn : Addr) :
    s.offsetTarget nnn = nnn.toNat + (s.getV (topNibble nnn)).toNat := by
  simp only [State.offsetTarget, h]

theorem State.shiftSource_vxOnly {s : State} (h : s.cfg.shiftQuirk = .vxOnly) (x y : Reg) : s.shiftSource x y = s.getV x := by
  simp only [State.shiftSource, h]

theorem State.shiftSource_vyToVx {s : State} (h : s.cfg.shiftQuirk = .vyToVx) (x y : Reg) : s.shiftSource x y = s.getV y := by
  simp only [State.shiftSource, h]

@[simp] theorem State.regsUpTo_length (s : State) (x : Reg) : (s.regsUpTo x).length = x.val + 1 := by
  simp [State.regsUpTo]

theorem State.regsUpTo_getElem (s : State) (x r : Reg) (h : r.val < (s.regsUpTo x).length) :
    (s.regsUpTo x)[r.val] = s.getV r := by
  simp [State.regsUpTo, State.getV]

theorem State.sprite_length (s : State) (n : Nat) : (s.sprite n).length = n := readBytes_length _ _ _

theorem State.sprite_getElem (s : State) (n k : Nat) (h : k < (s.sprite n).length) :
    (s.sprite n)[k] = s.readByte (s.i.toNat + k) := by
  simp only [State.sprite, readBytes_getElem, State.readByte, State.dataAddr, Nat.add_zero]

/-! ### Instructions with several cases -/

/-- All a `RET` can do (40_step_and_control_flow.md R126). -/
theorem execRet_cases (s : State) :
    (∃ h : 0 < s.sp.val, execRet s =
      .next { s with pc := s.stack[s.sp.val - 1]'(by omega), sp := ⟨s.sp.val - 1, by omega⟩ }) ∨
    (s.sp.val = 0 ∧ execRet s = .next (s.raise .stackUnderflow (encode .ret))) := by
  unfold execRet
  rcases Nat.eq_zero_or_pos s.sp.val with h | h
  · rw [State.pop_empty s h]
    exact .inr ⟨h, rfl⟩
  · rw [State.pop_of_pos s h]
    exact .inl ⟨h, rfl⟩

/-- All a `CALL` can do (40_step_and_control_flow.md R128). -/
theorem execCall_cases (nnn : Addr) (s : State) :
    (nnn.toNat % 2 = 1 ∧ execCall nnn s = .next (s.raise .outOfRangeJump (encode (.call nnn)))) ∨
    (nnn.toNat % 2 = 0 ∧ s.sp.val = 16 ∧ execCall nnn s = .next (s.raise .stackOverflow (encode (.call nnn)))) ∨
    (nnn.toNat % 2 = 0 ∧ ∃ h : s.sp.val < 16, execCall nnn s =
      .next { s with
        pc := BitVec.ofNat 16 nnn.toNat, stack := s.stack.set s.sp.val s.pc h, sp := ⟨s.sp.val + 1, by omega⟩ }) := by
  have hlt := nnn.isLt
  unfold execCall
  rcases Nat.mod_two_eq_zero_or_one nnn.toNat with h | h
  · rw [if_pos ((validTarget_iff _).2 ⟨by omega, h⟩)]
    by_cases hs : s.sp.val < 16
    · rw [State.push_of_lt s s.pc hs]
      exact .inr (.inr ⟨h, hs, rfl⟩)
    · rw [State.push_full s s.pc (by omega)]
      exact .inr (.inl ⟨h, by omega, rfl⟩)
  · rw [if_neg fun hv => by have := ((validTarget_iff _).1 hv).2; omega]
    exact .inl ⟨h, rfl⟩

/-- All a `JP` can do (40_step_and_control_flow.md R127). -/
theorem execJp_cases (nnn : Addr) (s : State) :
    (nnn.toNat % 2 = 0 ∧ execJp nnn s = .next (s.setPc (BitVec.ofNat 16 nnn.toNat))) ∨
    (nnn.toNat % 2 = 1 ∧ execJp nnn s = .next (s.raise .outOfRangeJump (encode (.jp nnn)))) := by
  have hlt := nnn.isLt
  unfold execJp
  rcases jumpTo_cases nnn.toNat (encode (.jp nnn)) s with ⟨_, h, e⟩ | ⟨h, e⟩ <;> rw [e]
  · exact .inl ⟨h, rfl⟩
  · exact .inr ⟨by omega, rfl⟩

/-- All that opcode Bnnn can do (40_step_and_control_flow.md R130). -/
theorem execJpV0_cases (nnn : Addr) (s : State) :
    (s.offsetTarget nnn ≤ 0xFFF ∧ s.offsetTarget nnn % 2 = 0 ∧
      execJpV0 nnn s = .next (s.setPc (BitVec.ofNat 16 (s.offsetTarget nnn)))) ∨
    ((s.offsetTarget nnn > 0xFFF ∨ s.offsetTarget nnn % 2 = 1) ∧
      execJpV0 nnn s = .next (s.raise .outOfRangeJump (encode (.jpV0 nnn)))) := by
  unfold execJpV0
  rcases jumpTo_cases (s.offsetTarget nnn) (encode (.jpV0 nnn)) s with ⟨hle, h, e⟩ | ⟨h, e⟩ <;> rw [e]
  · exact .inl ⟨hle, h, rfl⟩
  · exact .inr ⟨by omega, rfl⟩

/-- Which instruction raises which fault (60_exceptions.md R230). -/
def raisedBy : FaultKind → Instr → Prop
  | .unknownOpcode, _ => False
  | .stackOverflow, i => ∃ nnn, i = .call nnn
  | .stackUnderflow, i => i = .ret
  | .outOfRangeJump, i => ∃ nnn, i = .jp nnn ∨ i = .call nnn ∨ i = .jpV0 nnn

/-- An instruction that halts a machine which was not halted has raised a fault, and it is one of the four that can
(60_exceptions.md R230, R232). -/
theorem exec_halts {i : Instr} {s t : State} (hr : s.run ≠ .halted) (h : exec i s = .next t) (ht : t.run = .halted) :
    ∃ kind, raisedBy kind i ∧ t = s.raise kind (encode i) := by
  cases i with
  | ret =>
    rcases execRet_cases s with ⟨_, e⟩ | ⟨_, e⟩ <;> cases e.symm.trans h
    · exact absurd ht hr
    · exact ⟨.stackUnderflow, rfl, rfl⟩
  | jp nnn =>
    rcases execJp_cases nnn s with ⟨_, e⟩ | ⟨_, e⟩ <;> cases e.symm.trans h
    · exact absurd ht hr
    · exact ⟨.outOfRangeJump, ⟨nnn, .inl rfl⟩, rfl⟩
  | call nnn =>
    rcases execCall_cases nnn s with ⟨_, e⟩ | ⟨_, _, e⟩ | ⟨_, _, e⟩ <;> cases e.symm.trans h
    · exact ⟨.outOfRangeJump, ⟨nnn, .inr (.inl rfl)⟩, rfl⟩
    · exact ⟨.stackOverflow, ⟨nnn, rfl⟩, rfl⟩
    · exact absurd ht hr
  | jpV0 nnn =>
    rcases execJpV0_cases nnn s with ⟨_, _, e⟩ | ⟨_, e⟩ <;> cases e.symm.trans h
    · exact absurd ht hr
    · exact ⟨.outOfRangeJump, ⟨nnn, .inr (.inr rfl)⟩, rfl⟩
  | seImm x kk => cases h; exact absurd (State.skipIf_run s _ ▸ ht) hr
  | sneImm x kk => cases h; exact absurd (State.skipIf_run s _ ▸ ht) hr
  | seReg x y => cases h; exact absurd (State.skipIf_run s _ ▸ ht) hr
  | sneReg x y => cases h; exact absurd (State.skipIf_run s _ ▸ ht) hr
  | skp x => cases h; exact absurd (State.skipIf_run s _ ▸ ht) hr
  | sknp x => cases h; exact absurd (State.skipIf_run s _ ▸ ht) hr
  | ldVxK x => cases h; cases ht
  | _ => cases h; exact absurd ht hr

/-! ### The bytes of the word fetched -/

/-- The high byte of the word fetched is the byte at `PC` (40_step_and_control_flow.md R121). -/
theorem State.fetchWord_high (s : State) : s.fetchWord.toNat / 256 = (s.readByte s.pc.toNat).toNat := by
  have hlow := (s.readByte (s.pc.toNat + 1)).isLt
  have hsum : s.fetchWord.toNat = _ := append_toNat (s.readByte s.pc.toNat) (s.readByte (s.pc.toNat + 1))
  omega

/-- The low byte of the word fetched is the byte at `PC + 1` (40_step_and_control_flow.md R121). -/
theorem State.fetchWord_low (s : State) : s.fetchWord.toNat % 256 = (s.readByte (s.pc.toNat + 1)).toNat := by
  have hlow := (s.readByte (s.pc.toNat + 1)).isLt
  have hsum : s.fetchWord.toNat = _ := append_toNat (s.readByte s.pc.toNat) (s.readByte (s.pc.toNat + 1))
  omega

/-- Addresses with one reduction read alike (20_memory.md R60). -/
theorem State.readByte_of_phys (s : State) {a b : Nat} (h : a % 4096 = b % 4096) : s.readByte a = s.readByte b := by
  have hphys : phys a = phys b := h
  rw [State.readByte, State.readByte, ← read_phys s.mem a, hphys, read_phys]

end Sys2Proof.Machine
end

