-- ==== Sys2Proof/Laws/PerInstr.lean ====
section
/-! SUPPORT. Facts of instructions as syntax, one lemma for each constructor. Family EncodeSelectsRow: the word of an instruction
selects a row of the opcode map, and that row builds the instruction back (30_encoding.md R95). -/

namespace Sys2Proof.Laws.EncodeSelectsRow

/-- Some row of the opcode map matches the instruction's word and builds the instruction from it. -/
def Statement (i : Instr) : Prop :=
  ∃ k : Nat, ∃ r : OpcodeRow, opcodeMap[k]? = some r ∧ encode i &&& r.mask = r.pattern ∧ r.build (encode i) = i

theorem cls : Statement .cls := ⟨0, _, rfl, rfl, rfl⟩

theorem ret : Statement .ret := ⟨1, _, rfl, rfl, rfl⟩

theorem sys (nnn : Addr) : Statement (.sys nnn) := ⟨2, _, rfl, formatA_and _ _, congrArg Instr.sys (fieldNNN_formatA _ _)⟩

theorem jp (nnn : Addr) : Statement (.jp nnn) := ⟨3, _, rfl, formatA_and _ _, congrArg Instr.jp (fieldNNN_formatA _ _)⟩

theorem call (nnn : Addr) : Statement (.call nnn) := ⟨4, _, rfl, formatA_and _ _, congrArg Instr.call (fieldNNN_formatA _ _)⟩

theorem ldI (nnn : Addr) : Statement (.ldI nnn) := ⟨5, _, rfl, formatA_and _ _, congrArg Instr.ldI (fieldNNN_formatA _ _)⟩

theorem jpV0 (nnn : Addr) : Statement (.jpV0 nnn) := ⟨6, _, rfl, formatA_and _ _, congrArg Instr.jpV0 (fieldNNN_formatA _ _)⟩

theorem seImm (x : Reg) (kk : Byte) : Statement (.seImm x kk) := ⟨7, _, rfl, formatI_and _ _ _, congrArg₂ Instr.seImm (fieldX_formatI _ _ _) (fieldKK_formatI _ _ _)⟩

theorem sneImm (x : Reg) (kk : Byte) : Statement (.sneImm x kk) := ⟨8, _, rfl, formatI_and _ _ _, congrArg₂ Instr.sneImm (fieldX_formatI _ _ _) (fieldKK_formatI _ _ _)⟩

theorem ldImm (x : Reg) (kk : Byte) : Statement (.ldImm x kk) := ⟨9, _, rfl, formatI_and _ _ _, congrArg₂ Instr.ldImm (fieldX_formatI _ _ _) (fieldKK_formatI _ _ _)⟩

theorem addImm (x : Reg) (kk : Byte) : Statement (.addImm x kk) := ⟨10, _, rfl, formatI_and _ _ _, congrArg₂ Instr.addImm (fieldX_formatI _ _ _) (fieldKK_formatI _ _ _)⟩

theorem rnd (x : Reg) (kk : Byte) : Statement (.rnd x kk) := ⟨11, _, rfl, formatI_and _ _ _, congrArg₂ Instr.rnd (fieldX_formatI _ _ _) (fieldKK_formatI _ _ _)⟩

theorem seReg (x y : Reg) : Statement (.seReg x y) := ⟨12, _, rfl, formatR_and _ _ _ _, congrArg₂ Instr.seReg (fieldX_formatR _ _ _ _) (fieldY_formatR _ _ _ _)⟩

theorem ldReg (x y : Reg) : Statement (.ldReg x y) := ⟨13, _, rfl, formatR_and _ _ _ _, congrArg₂ Instr.ldReg (fieldX_formatR _ _ _ _) (fieldY_formatR _ _ _ _)⟩

theorem orReg (x y : Reg) : Statement (.orReg x y) := ⟨14, _, rfl, formatR_and _ _ _ _, congrArg₂ Instr.orReg (fieldX_formatR _ _ _ _) (fieldY_formatR _ _ _ _)⟩

theorem andReg (x y : Reg) : Statement (.andReg x y) := ⟨15, _, rfl, formatR_and _ _ _ _, congrArg₂ Instr.andReg (fieldX_formatR _ _ _ _) (fieldY_formatR _ _ _ _)⟩

theorem xorReg (x y : Reg) : Statement (.xorReg x y) := ⟨16, _, rfl, formatR_and _ _ _ _, congrArg₂ Instr.xorReg (fieldX_formatR _ _ _ _) (fieldY_formatR _ _ _ _)⟩

theorem addReg (x y : Reg) : Statement (.addReg x y) := ⟨17, _, rfl, formatR_and _ _ _ _, congrArg₂ Instr.addReg (fieldX_formatR _ _ _ _) (fieldY_formatR _ _ _ _)⟩

theorem sub (x y : Reg) : Statement (.sub x y) := ⟨18, _, rfl, formatR_and _ _ _ _, congrArg₂ Instr.sub (fieldX_formatR _ _ _ _) (fieldY_formatR _ _ _ _)⟩

theorem shr (x y : Reg) : Statement (.shr x y) := ⟨19, _, rfl, formatR_and _ _ _ _, congrArg₂ Instr.shr (fieldX_formatR _ _ _ _) (fieldY_formatR _ _ _ _)⟩

theorem subn (x y : Reg) : Statement (.subn x y) := ⟨20, _, rfl, formatR_and _ _ _ _, congrArg₂ Instr.subn (fieldX_formatR _ _ _ _) (fieldY_formatR _ _ _ _)⟩

theorem shl (x y : Reg) : Statement (.shl x y) := ⟨21, _, rfl, formatR_and _ _ _ _, congrArg₂ Instr.shl (fieldX_formatR _ _ _ _) (fieldY_formatR _ _ _ _)⟩

theorem sneReg (x y : Reg) : Statement (.sneReg x y) := ⟨22, _, rfl, formatR_and _ _ _ _, congrArg₂ Instr.sneReg (fieldX_formatR _ _ _ _) (fieldY_formatR _ _ _ _)⟩

theorem drw (x y : Reg) (n : Fin 16) : Statement (.drw x y n) := ⟨23, _, rfl, formatR_and_op _ _ _ _, by
    show Instr.drw _ _ _ = _
    rw [encode, fieldX_formatR, fieldY_formatR, fieldN_formatR]⟩

theorem skp (x : Reg) : Statement (.skp x) := ⟨24, _, rfl, formatX_and _ _ _, congrArg Instr.skp (fieldX_formatX _ _ _)⟩

theorem sknp (x : Reg) : Statement (.sknp x) := ⟨25, _, rfl, formatX_and _ _ _, congrArg Instr.sknp (fieldX_formatX _ _ _)⟩

theorem ldVxDt (x : Reg) : Statement (.ldVxDt x) := ⟨26, _, rfl, formatX_and _ _ _, congrArg Instr.ldVxDt (fieldX_formatX _ _ _)⟩

theorem ldVxK (x : Reg) : Statement (.ldVxK x) := ⟨27, _, rfl, formatX_and _ _ _, congrArg Instr.ldVxK (fieldX_formatX _ _ _)⟩

theorem ldDtVx (x : Reg) : Statement (.ldDtVx x) := ⟨28, _, rfl, formatX_and _ _ _, congrArg Instr.ldDtVx (fieldX_formatX _ _ _)⟩

theorem ldStVx (x : Reg) : Statement (.ldStVx x) := ⟨29, _, rfl, formatX_and _ _ _, congrArg Instr.ldStVx (fieldX_formatX _ _ _)⟩

theorem addI (x : Reg) : Statement (.addI x) := ⟨30, _, rfl, formatX_and _ _ _, congrArg Instr.addI (fieldX_formatX _ _ _)⟩

theorem ldF (x : Reg) : Statement (.ldF x) := ⟨31, _, rfl, formatX_and _ _ _, congrArg Instr.ldF (fieldX_formatX _ _ _)⟩

theorem ldB (x : Reg) : Statement (.ldB x) := ⟨32, _, rfl, formatX_and _ _ _, congrArg Instr.ldB (fieldX_formatX _ _ _)⟩

theorem stRegs (x : Reg) : Statement (.stRegs x) := ⟨33, _, rfl, formatX_and _ _ _, congrArg Instr.stRegs (fieldX_formatX _ _ _)⟩

theorem ldRegs (x : Reg) : Statement (.ldRegs x) := ⟨34, _, rfl, formatX_and _ _ _, congrArg Instr.ldRegs (fieldX_formatX _ _ _)⟩

end Sys2Proof.Laws.EncodeSelectsRow
end

