-- ==== Sys2Proof/Tests/Slice0.lean ====
section
/-! SUPPORT. Tests: ill-formed terms, words and what they decode to, one step per test, and a witness for the hypotheses of every
statement. The expected values are the spec's: the name in a comment ("A12", "W5") is the vector's in 95_test_vectors.md, and a
word is written out from the formats of 30_encoding.md R92 and the patterns of R95. -/

namespace Sys2Proof.Tests

open Sys2Proof.Machine

/-! ### Well-formedness -/

theorem test_wf_refuses_sys_0E0 : (Instr.sys 0x0E0).wf = false := by decide
theorem test_wf_refuses_sys_0EE : (Instr.sys 0x0EE).wf = false := by decide
theorem test_wf_takes_other_sys : (Instr.sys 0x0E1).wf = true ∧ (Instr.sys 0x000).wf = true ∧ (Instr.sys 0xFFF).wf = true := by
  decide

/-! ### Decoding and encoding: each word is written nibble by nibble from its row of 30_encoding.md R95 -/

/-- The word and the instruction stand for each other. -/
def isWordOf (w : Word) (i : Instr) : Bool :=
  (match decode w with
   | .ok j => j == i
   | .error _ => false) && encode i == w

/-- Rows 1, 3 to 9, 20 and 22: `0nnn`, `00EE`, `1nnn`, `2nnn`, `3xkk`, `4xkk`, `5xy0`, `9xy0`, `Bnnn`. -/
theorem test_decode_control_flow :
    isWordOf 0b0000_000100100011 (.sys 0x123) ∧ isWordOf 0b0000_0000_1110_1110 .ret ∧
    isWordOf 0b0001_001000110100 (.jp 0x234) ∧ isWordOf 0b0010_101010111100 (.call 0xABC) ∧
    isWordOf 0b0011_0011_00101010 (.seImm 0x3 0x2A) ∧ isWordOf 0b0100_1100_11111110 (.sneImm 0xC 0xFE) ∧
    isWordOf 0b0101_0001_0010_0000 (.seReg 0x1 0x2) ∧ isWordOf 0b1001_1110_0111_0000 (.sneReg 0xE 0x7) ∧
    isWordOf 0b1011_001100000001 (.jpV0 0x301) := by decide

/-- `6xkk`, `7xkk`, `8xy0` to `8xy7`, `8xyE`, `Cxkk`. -/
theorem test_decode_load_arith :
    isWordOf 0b0110_1111_10101011 (.ldImm 0xF 0xAB) ∧ isWordOf 0b0111_0000_00000011 (.addImm 0x0 0x03) ∧
    isWordOf 0b1000_0001_0010_0000 (.ldReg 0x1 0x2) ∧ isWordOf 0b1000_0001_0010_0001 (.orReg 0x1 0x2) ∧
    isWordOf 0b1000_0001_0010_0010 (.andReg 0x1 0x2) ∧ isWordOf 0b1000_0001_0010_0011 (.xorReg 0x1 0x2) ∧
    isWordOf 0b1000_0001_0010_0100 (.addReg 0x1 0x2) ∧ isWordOf 0b1000_0001_0010_0101 (.sub 0x1 0x2) ∧
    isWordOf 0b1000_0001_0010_0110 (.shr 0x1 0x2) ∧ isWordOf 0b1000_0001_0010_0111 (.subn 0x1 0x2) ∧
    isWordOf 0b1000_0001_0010_1110 (.shl 0x1 0x2) ∧ isWordOf 0b1100_0011_00001111 (.rnd 0x3 0x0F) := by decide

/-- `Annn`, `Fx1E`, `Fx29`, `Fx33`, `Fx55`, `Fx65`. -/
theorem test_decode_index_memory :
    isWordOf 0b1010_001100000000 (.ldI 0x300) ∧ isWordOf 0b1111_0010_00011110 (.addI 0x2) ∧
    isWordOf 0b1111_0100_00101001 (.ldF 0x4) ∧ isWordOf 0b1111_1000_00110011 (.ldB 0x8) ∧
    isWordOf 0b1111_0001_01010101 (.stRegs 0x1) ∧ isWordOf 0b1111_1111_01100101 (.ldRegs 0xF) := by decide

/-- `00E0`, `Dxyn`. -/
theorem test_decode_display :
    isWordOf 0b0000_0000_1110_0000 .cls ∧ isWordOf 0b1101_0001_0010_0101 (.drw 0x1 0x2 0x5) := by decide

/-- `Fx07`, `Fx15`, `Fx18`; `Ex9E`, `ExA1`, `Fx0A`. -/
theorem test_decode_timers_keypad :
    isWordOf 0b1111_0010_00000111 (.ldVxDt 0x2) ∧ isWordOf 0b1111_0010_00010101 (.ldDtVx 0x2) ∧
    isWordOf 0b1111_0010_00011000 (.ldStVx 0x2) ∧ isWordOf 0b1110_0101_10011110 (.skp 0x5) ∧
    isWordOf 0b1110_0101_10100001 (.sknp 0x5) ∧ isWordOf 0b1111_0011_00001010 (.ldVxK 0x3) := by decide

/-- Illegal words, one of each class and its edges (95_test_vectors.md section 7). -/
theorem test_decode_refuses_illegal :
    ([0x5121, 0x512F, 0x8128, 0x812D, 0x812F, 0x9001, 0xE19F, 0xE2A0, 0xF1FF, 0xF00B, 0xF085, 0xFFFF] : List Word).all
      (fun w => (decode w).toOption.isNone) = true := by decide

/-- The host's numbering of a row's bits, and a stream of bytes with something after the instruction. -/
theorem test_table_word_and_bytes :
    decodeTableWord 16 0xD125 = some (.drw 1 2 5) ∧ decodeTableWord 16 0x5121 = none ∧
    (decodeBytes [0xD1, 0x25, 0xFF]).toOption = some (.drw 1 2 5, [0xFF]) ∧ (decodeBytes [0xD1]).toOption = none := by decide

/-! ### One step -/

/-- The reset state with some registers set. -/
def withRegs (regs : List (Reg × Byte)) (s : State := State.reset) : State := regs.foldl (fun s p => s.setV p.1 p.2) s

/-- One step on the word, placed where the step fetches. -/
def ran (s : State) (w : Nat) : Option State :=
  match step (s.withFetchWord 16 w) with
  | .next t => some t
  | _ => none

/-- One step with a given input. -/
def did (s : State) (e : Input) : Option State :=
  match step { s with inputs := [e] } with
  | .next t => some t
  | _ => none

/-- What a test of control flow looks at. -/
def flow (t : State) : RunState × Word × Nat := (t.run, t.pc, t.sp.val)

/-- The halt record. -/
def err (t : State) : RunState × BitVec 3 × Word × Word := (t.run, errCode t.errCause, t.errAddr, t.errWord)

/-- A register and VF. -/
def regs2 (r : Reg) (t : State) : Byte × Byte := (t.v[r], t.v[VF])

/-- These pixels are set, column first, and no others. -/
def onlySet (pixels : List (Nat × Nat)) (t : State) : Bool :=
  pixels.all (fun p => t.fb.pixel p.1 p.2) && (t.fb.toList.map (·.toList.count true)).sum == pixels.length

def stackOf (n : Fin 17) : State := { State.reset with sp := n, stack := Vector.replicate 16 0x0ABC }

/-- CF1 -/
theorem test_sys : (ran State.reset 0x0123).map flow = some (.running, 0x202, 0) := by decide
/-- CF5 -/
theorem test_ret : (ran (stackOf 16) 0x00EE).map flow = some (.running, 0x0ABC, 15) := by decide
/-- CF4 -/
theorem test_ret_underflow : (ran State.reset 0x00EE).map err = some (.halted, 3, 0x200, 0x00EE) := by decide
/-- CF8 -/
theorem test_jp : (ran State.reset 0x1FFE).map flow = some (.running, 0xFFE, 0) := by decide
/-- CF7, at PC = 0202 -/
theorem test_jp_odd : (ran { State.reset with pc := 0x202 } 0x1201).map (fun t => (t.pc, err t)) =
    some (0x204, .halted, 4, 0x202, 0x1201) := by decide
/-- CF11 -/
theorem test_call : (ran (stackOf 15) 0x2300).map (fun t => (flow t, t.stack[15])) = some ((.running, 0x300, 16), 0x202) := by
  decide
/-- CF12, CF13 -/
theorem test_call_full : (ran (stackOf 16) 0x2300).map err = some (.halted, 2, 0x200, 0x2300) ∧
    (ran (stackOf 16) 0x2301).map err = some (.halted, 4, 0x200, 0x2301) := by decide
/-- CF15 and CF20 -/
theorem test_jpV0 : (ran (withRegs [(0, 0x04)]) 0xB300).map flow = some (.running, 0x304, 0) ∧
    (ran (withRegs [(0, 0x04), (3, 0x10)] { State.reset with cfg := { defaultCfg with jumpQuirk := .vx } }) 0xB300).map flow =
      some (.running, 0x310, 0) := by decide
/-- CF17 and CF18 -/
theorem test_jpV0_faults : (ran (withRegs [(0, 0x02)]) 0xBFFE).map err = some (.halted, 4, 0x200, 0xBFFE) ∧
    (ran (withRegs [(0, 0x01)]) 0xB300).map err = some (.halted, 4, 0x200, 0xB300) := by decide
/-- CF23, CF24 -/
theorem test_seImm : (ran (withRegs [(3, 0x2A)]) 0x332A).map (·.pc) = some 0x204 ∧
    (ran (withRegs [(3, 0x2A)]) 0x332B).map (·.pc) = some 0x202 := by decide
/-- CF36: the skip wraps -/
theorem test_seImm_wraps : (ran { State.reset with pc := 0xFFFC } 0x3000).map (·.pc) = some 0x0000 := by decide
/-- CF25, CF26 -/
theorem test_sneImm : (ran (withRegs [(3, 0x2A)]) 0x432A).map (·.pc) = some 0x202 ∧
    (ran (withRegs [(3, 0x2A)]) 0x432B).map (·.pc) = some 0x204 := by decide
/-- CF27, CF28 -/
theorem test_seReg : (ran (withRegs [(1, 7), (2, 7)]) 0x5120).map (·.pc) = some 0x204 ∧
    (ran (withRegs [(1, 7), (2, 8)]) 0x5120).map (·.pc) = some 0x202 := by decide
/-- CF30, CF31 -/
theorem test_sneReg : (ran (withRegs [(1, 7), (2, 8)]) 0x9120).map (·.pc) = some 0x204 ∧
    (ran (withRegs [(1, 7), (2, 7)]) 0x9120).map (·.pc) = some 0x202 := by decide

/-- A2 -/
theorem test_ldImm : (ran State.reset 0x6FAB).map (regs2 15) = some (0xAB, 0xAB) := by decide
/-- CF35: the fetch at FFFE reads 0FFE and 0FFF, and `PC` wraps -/
theorem test_fetch_wraps : (ran { State.reset with pc := 0xFFFE } 0x6005).map (fun t => (t.v[0], t.pc)) = some (5, 0) := by
  decide
/-- A6, A7 -/
theorem test_addImm : (ran (withRegs [(0, 0xFF), (15, 1)]) 0x7001).map (regs2 0) = some (0, 1) ∧
    (ran (withRegs [(15, 0xFF)]) 0x7F01).map (regs2 15) = some (0, 0) := by decide
/-- A8 -/
theorem test_ldReg : (ran (withRegs [(2, 0x7C)]) 0x8120).map (regs2 1) = some (0x7C, 0) := by decide
/-- A9 -/
theorem test_orReg : (ran (withRegs [(1, 0xF0), (2, 0x0F), (15, 1)]) 0x8121).map (regs2 1) = some (0xFF, 1) := by decide
/-- A10 -/
theorem test_andReg : (ran (withRegs [(1, 0xF0), (2, 0x3C)]) 0x8122).map (regs2 1) = some (0x30, 0) := by decide
/-- A11 -/
theorem test_xorReg : (ran (withRegs [(1, 0xF0), (2, 0x3C)]) 0x8123).map (regs2 1) = some (0xCC, 0) := by decide
/-- A12 -/
theorem test_addReg : (ran (withRegs [(1, 0xC8), (2, 0x64)]) 0x8124).map (regs2 1) = some (0x2C, 1) := by decide
/-- A17, A19: VF as destination and as source -/
theorem test_addReg_flag_register : (ran (withRegs [(15, 0xF0), (1, 0x20)]) 0x8F14).map (regs2 15) = some (1, 1) ∧
    (ran (withRegs [(1, 0xFF), (15, 1)]) 0x81F4).map (regs2 1) = some (0, 1) := by decide
/-- A21, A22 -/
theorem test_sub : (ran (withRegs [(1, 0x0A), (2, 0x0C)]) 0x8125).map (regs2 1) = some (0xFE, 0) ∧
    (ran (withRegs [(1, 5), (2, 5)]) 0x8125).map (regs2 1) = some (0, 1) := by decide
/-- A26, A28 -/
theorem test_sub_flag_register : (ran (withRegs [(15, 5), (1, 3)]) 0x8F15).map (regs2 15) = some (1, 1) ∧
    (ran (withRegs [(1, 5), (15, 1)]) 0x81F5).map (regs2 1) = some (4, 1) := by decide
/-- A29, A30 -/
theorem test_subn : (ran (withRegs [(1, 0x0A), (2, 0x0C)]) 0x8127).map (regs2 1) = some (2, 1) ∧
    (ran (withRegs [(1, 0x0C), (2, 0x0A)]) 0x8127).map (regs2 1) = some (0xFE, 0) := by decide
/-- A32 -/
theorem test_subn_flag_register : (ran (withRegs [(15, 1)]) 0x8F27).map (regs2 15) = some (0, 0) := by decide

def vyToVx : State := { State.reset with cfg := { defaultCfg with shiftQuirk := .vyToVx } }

/-- A33, A34 -/
theorem test_shr : (ran (withRegs [(1, 5), (2, 0xF0)]) 0x8126).map (regs2 1) = some (2, 1) ∧
    (ran (withRegs [(1, 5), (2, 0xF0)] vyToVx) 0x8126).map (regs2 1) = some (0x78, 0) := by decide
/-- A38, A39 -/
theorem test_shr_flag_register : (ran (withRegs [(15, 2)]) 0x8F26).map (regs2 15) = some (0, 0) ∧
    (ran (withRegs [(1, 8), (15, 1)] vyToVx) 0x81F6).map (regs2 1) = some (0, 1) := by decide
/-- A41, A42 -/
theorem test_shl : (ran (withRegs [(1, 0x81), (2, 0x40)]) 0x812E).map (regs2 1) = some (2, 1) ∧
    (ran (withRegs [(1, 0x81), (2, 0x40)] vyToVx) 0x812E).map (regs2 1) = some (0x80, 0) := by decide
/-- A46 -/
theorem test_shl_flag_register : (ran (withRegs [(15, 0x40)]) 0x8F2E).map (regs2 15) = some (0, 0) := by decide
/-- A47: the word is placed, then the host steps with the draw A7 -/
theorem test_rnd : (did (State.reset.withFetchWord 16 0xC30F) (.step 0xA7)).map (regs2 3) = some (7, 0) := by decide

/-- M2 -/
theorem test_ldI : (ran { State.reset with i := 0x1234 } 0xAFFF).map (·.i) = some 0x0FFF := by decide
/-- M5, M6 -/
theorem test_addI : (ran (withRegs [(2, 1)] { State.reset with i := 0xFFFF }) 0xF21E).map (fun t => (t.i, t.v[15])) = some (0, 0) ∧
    (ran (withRegs [(2, 0xFF), (15, 7)] { State.reset with i := 0x0F80 }) 0xF21E).map (fun t => (t.i, t.v[15])) =
      some (0x107F, 7) := by decide
/-- M9, M10 -/
theorem test_ldF : (ran (withRegs [(0, 0x1A)]) 0xF029).map (·.i) = some 0x32 ∧
    (ran (withRegs [(0, 1)] { State.reset with cfg := { defaultCfg with fontBase := 0x050 } }) 0xF029).map (·.i) =
      some 0x55 := by decide
/-- M11 -/
theorem test_ldB : (ran (withRegs [(0, 0xFE)] { State.reset with i := 0x300 }) 0xF033).map
    (fun t => (t.readByte 0x300, t.readByte 0x301, t.readByte 0x302, t.i)) = some (2, 5, 4, 0x300) := by decide
/-- M14: the third digit goes to address 0, over the font -/
theorem test_ldB_wraps : (ran (withRegs [(0, 107)] { State.reset with i := 0xFFE }) 0xF033).map
    (fun t => (t.readByte 0xFFE, t.readByte 0xFFF, t.readByte 0, t.readByte 1)) = some (1, 0, 7, 0x90) := by decide
/-- M17 -/
theorem test_stRegs : (ran (withRegs [(0, 0xAA), (1, 0xBB)] { State.reset with i := 0x400 }) 0xF055).map
    (fun t => (t.readByte 0x400, t.readByte 0x401, t.i)) = some (0xAA, 0, 0x400) := by decide
/-- M18 -/
theorem test_stRegs_wraps : (ran (withRegs [(0, 1), (1, 2), (2, 3), (3, 4)] { State.reset with i := 0xFFE }) 0xF355).map
    (fun t => (t.readByte 0xFFE, t.readByte 0xFFF, t.readByte 0, t.readByte 1)) = some (1, 2, 3, 4) := by decide
/-- M21 -/
theorem test_ldRegs : (ran (withRegs [(1, 0x77)] ({ State.reset with i := 0x300 }.writeBytes 0x300 [2, 5])) 0xF065).map
    (fun t => (t.v[0], t.v[1], t.i)) = some (2, 0x77, 0x300) := by decide
/-- M23: the first 16 font bytes -/
theorem test_ldRegs_font : (ran State.reset 0xFF65).map (·.v.toList) =
    some [0xF0, 0x90, 0x90, 0x90, 0xF0, 0x20, 0x60, 0x20, 0x20, 0x70, 0xF0, 0x10, 0xF0, 0x80, 0xF0, 0xF0] := by decide

/-- A sprite at 0x300, addressed by `I`. -/
def withSprite (rows : List Byte) : State := { State.reset with i := 0x300 }.writeBytes 0x300 rows

/-- W1 -/
theorem test_cls : (ran { withRegs [(15, 1)] with fb := Display.blank.flip 63 31 } 0x00E0).map (fun t => (onlySet [] t, t.v[15])) =
    some (true, 1) := by decide
/-- W5: both edges wrap -/
theorem test_drw : (ran (withRegs [(0, 0xFF), (1, 0xFF)] (withSprite [0xC0])) 0xD011).map
    (fun t => (onlySet [(63, 31), (0, 31)] t, t.v[15])) = some (true, 0) := by decide
/-- W12: a partial overlap -/
theorem test_drw_collides : (ran { withRegs [(2, 2)] (withSprite [0xF0]) with
      fb := (((Display.blank.flip 0 0).flip 1 0).flip 2 0).flip 3 0 } 0xD211).map
    (fun t => (onlySet [(0, 0), (1, 0), (4, 0), (5, 0)] t, t.v[15])) = some (true, 1) := by decide

/-- T5 -/
theorem test_ldVxDt : (ran (withRegs [(15, 1)] { State.reset with dt := 3 }) 0xFF07).map (regs2 15) = some (3, 3) := by
  decide
/-- T2 -/
theorem test_ldDtVx : (ran (withRegs [(2, 0x3C)]) 0xF215).map (fun t => (t.dt, t.st)) = some (0x3C, 0) := by decide
/-- T3 -/
theorem test_ldStVx : (ran (withRegs [(2, 5)]) 0xF218).map (fun t => (t.dt, t.st, t.soundActive)) = some (0, 5, true) := by
  decide
/-- K5, K2 -/
theorem test_skp : (ran (withRegs [(2, 0x17)] { State.reset with keys := State.reset.keys.set 7 true }) 0xE29E).map (·.pc) =
    some 0x204 ∧ (ran (withRegs [(2, 7)]) 0xE29E).map (·.pc) = some 0x202 := by decide
/-- K4, K3 -/
theorem test_sknp : (ran (withRegs [(2, 7)] { State.reset with keys := State.reset.keys.set 7 true }) 0xE2A1).map (·.pc) =
    some 0x202 ∧ (ran (withRegs [(2, 7)]) 0xE2A1).map (·.pc) = some 0x204 := by decide
/-- K6 -/
theorem test_ldVxK : (ran { State.reset with hitValid := true } 0xF30A).map
    (fun t => (t.run, t.waitReg, t.hitValid, t.pc, t.v[3], t.stepResult)) =
      some (.waitKey, 3, false, 0x202, 0, .waiting) := by decide

/-- 5121 at 0x200 (section 7) -/
theorem test_illegal_word : (ran State.reset 0x5121).map (fun t => (t.pc, err t, t.stepResult)) =
    some (0x202, (.halted, 1, 0x200, 0x5121), .fault (some .unknownOpcode)) := by decide

/-! ### The other transitions -/

/-- T7, T10 -/
theorem test_tick : (did { State.reset with dt := 1, st := 0xFF, run := .halted } .timerTick).map (fun t => (t.dt, t.st)) =
    some (0, 0xFE) ∧ (did State.reset .timerTick).map (fun t => (t.dt, t.st)) = some (0, 0) := by decide

/-- The machine during a key wait for `V[3]`. -/
def waiting : State := { State.reset with run := .waitKey, waitReg := 3 }

/-- The same with key B latched. -/
def latched : State := { waiting with hitValid := true, hitKey := 0xB, keys := State.reset.keys.set 0xB true }

/-- What a test of a key event looks at. -/
def keyView (k : Key) (t : State) : Bool × Bool × Key := (t.keys[k], t.hitValid, t.hitKey)

/-- K7, K8, K9 -/
theorem test_key_press : (did State.reset (.keyEvent 5 true)).map (keyView 5) = some (true, false, 0) ∧
    (did waiting (.keyEvent 0xB true)).map (keyView 0xB) = some (true, true, 0xB) ∧
    (did { waiting with keys := State.reset.keys.set 5 true } (.keyEvent 5 true)).map (keyView 5) =
      some (true, false, 0) := by decide
/-- K11, K12 -/
theorem test_key_latch_keeps : (did latched (.keyEvent 0xC true)).map (keyView 0xC) = some (true, true, 0xB) ∧
    (did latched (.keyEvent 0xB false)).map (keyView 0xB) = some (false, true, 0xB) := by decide
/-- K13, K14 -/
theorem test_wait_step : (did latched (.step 0)).map (fun t => (t.v[3], t.hitValid, t.run, t.pc)) =
      some (0x0B, false, .running, 0x200) ∧
    (did waiting (.step 0)).map (fun t => (t.v[3], t.run, t.pc, t.stepResult)) = some (0, .waitKey, 0x200, .waiting) := by
  decide
/-- L2, and the font address 00_scope.md R7 excludes -/
theorem test_power_on_refusals : powerOn defaultCfg (List.replicate 3585 0) State.reset = .fault .loadError ∧
    powerOn { defaultCfg with fontBase := 0x1B1 } [] State.reset = .refused .fontBaseOutOfRange := by
  refine ⟨?_, rfl⟩
  rw [powerOn, if_pos]
  rw [List.length_replicate]
  decide
/-- L4: with the font moved to 0x050 the place of its default is `FILL`, and an image stands at 0x200. -/
theorem test_power_on_memory : (Memory.lookup (loadedMemory { defaultCfg with fontBase := 0x050 } [0x60, 0x05]) 0x000,
    Memory.lookup (loadedMemory { defaultCfg with fontBase := 0x050 } [0x60, 0x05]) 0x050) = (some 0x00, some 0xF0) := by
  decide +kernel
/-- L5: nothing of the machine before is left. -/
theorem test_power_on : (did { latched with pc := 0x345, v := Vector.replicate 16 9 } (.powerOn defaultCfg [0x60, 0x05])).map
    (fun t => (t.pc, t.v[3], t.run, t.hitValid, t.keys[0xB])) = some (0x200, 0, .running, false, false) := by
  decide
/-- The queries (60_exceptions.md R250 to R252). -/
theorem test_queries : State.reset.status = ⟨.running, 0, 0, 0, 0x200⟩ ∧ State.reset.soundActive = false ∧
    { State.reset with fb := Display.blank.flip 5 2 }.pixelAt 5 2 = true := by decide
/-- The reference frame: the steps, one tick, the key events (70_reset_and_hazards.md R285). -/
theorem test_reference_frame : referenceFrame [1, 2] [(5, true)] = [.step 1, .step 2, .timerTick, .keyEvent 5 true] := rfl

/-! ### Witnesses: for each statement with hypotheses, a state and operands that meet all of them, at the edges of their ranges -/

/-- Reset with a word at 0x200, and no input listed. -/
def at200 (w : Nat) : State := State.reset.withFetchWord 16 w

theorem witness_DecodeOfEncode :
    (Instr.drw 15 15 15).wf = true ∧ (Instr.sys 0xFFF).wf = true ∧ (Instr.ldRegs 0).wf = true := by decide

theorem witness_EncodeOfDecode : decode 0xF165 = .ok (.ldRegs 1) ∧ decode 0x00E1 = .ok (.sys 0x0E1) := ⟨rfl, rfl⟩

theorem witness_StepPerformsNextInput :
    { State.reset with inputs := [.timerTick] }.inputs = .timerTick :: [] ∧ State.reset.inputs = [] := ⟨rfl, rfl⟩

theorem witness_StepRunsDecodedInstruction :
    ((at200 0x6005).run = .running ∧ decode (at200 0x6005).fetchWord = .ok (.ldImm 0 5) ∧ (at200 0x6005).inputs = []) ∧
    ({ at200 0x6005 with inputs := [.step 0xFF] }.run = .running ∧
      decode { at200 0x6005 with inputs := [.step 0xFF] }.fetchWord = .ok (.ldImm 0 5) ∧
      { at200 0x6005 with inputs := [.step 0xFF] }.inputs = .step 0xFF :: []) := by
  refine ⟨⟨rfl, ?_, rfl⟩, rfl, ?_, rfl⟩ <;> rfl

theorem witness_IllegalWordHaltsWithRecord :
    (at200 0xF000).run = .running ∧ decode (at200 0xF000).fetchWord = .error (.unknownOpcode 0xF000) := ⟨rfl, rfl⟩

/-- A machine about to fault, one for each kind: an illegal word, `CALL` on a full stack, `RET` on an empty one, an
odd `JP`. -/
def faulting : FaultKind → State
  | .unknownOpcode => at200 0xF000
  | .stackOverflow => (stackOf 16).withFetchWord 16 0x2300
  | .stackUnderflow => at200 0x00EE
  | .outOfRangeJump => at200 0x1FFF

theorem witness_FaultEntryIsPrecise (kind : FaultKind) :
    (faulting kind).run = .running ∧
      ∃ t, cpuStep 0 (faulting kind) = .next t ∧ t.run = .halted ∧ t.errCause = some kind := by
  cases kind <;> exact ⟨rfl, _, rfl, rfl, rfl⟩

theorem witness_HaltedStepChangesNothing :
    { State.reset with run := .halted, errCause := some .unknownOpcode }.run = .halted := rfl

/-- A state that meets the invariant and is not the reset state: a return address and a listed byte. -/
def called : State := { at200 0x00EE with sp := 1, stack := State.reset.stack.set 0 0x0ABC }

theorem witness_StepKeepsInvariant : Inv called ∧ ∃ t, step called = .next t :=
  ⟨⟨by decide, by decide, by decide, by decide, by decide, by decide⟩, _, rfl⟩

theorem witness_KeySkipsTestTheLevel :
    (7 : Key).val = (withRegs [(2, 0x17)]).v[(2 : Reg)].toNat % 16 ∧
    (15 : Key).val = (withRegs [(2, 0xFF)]).v[(2 : Reg)].toNat % 16 ∧
    (0 : Key).val = (withRegs [(2, 0xF0)]).v[(2 : Reg)].toNat % 16 := by decide

theorem witness_JumpGoesToEvenAddress : (0xFFE : Addr).toNat % 2 = 0 ∧ (0x000 : Addr).toNat % 2 = 0 := by decide

theorem witness_CallPushesReturnAddress :
    (0xFFE : Addr).toNat % 2 = 0 ∧ (stackOf 0).sp.val < 16 ∧ (stackOf 15).sp.val < 16 := by decide

theorem witness_ReturnPopsMostRecentAddress :
    (stackOf 16).sp.val = (15 : Fin 16).val + 1 ∧ (stackOf 1).sp.val = (0 : Fin 16).val + 1 := by decide

theorem witness_ReturnUndoesCall : (0x300 : Addr).toNat % 2 = 0 ∧ (stackOf 15).sp.val < 16 := by decide

/-- The state of CF21: selector `VX`, VF = FE. -/
def vxState : State := withRegs [(15, 0xFE)] { State.reset with cfg := { defaultCfg with jumpQuirk := .vx } }

/-- `V0` with the highest target, and `VX` with register 15 (CF19, CF21). -/
theorem witness_OffsetJumpAddsSelectedRegister :
    ((State.reset.cfg.jumpQuirk = .v0 → (0 : Reg) = 0) ∧
      (State.reset.cfg.jumpQuirk = .vx → (0 : Reg).val = (0xFFE : Addr).toNat / 256) ∧
      (0xFFE : Addr).toNat + State.reset.v[(0 : Reg)].toNat ≤ 0xFFF ∧
      ((0xFFE : Addr).toNat + State.reset.v[(0 : Reg)].toNat) % 2 = 0) ∧
    ((vxState.cfg.jumpQuirk = .v0 → (15 : Reg) = 0) ∧
      (vxState.cfg.jumpQuirk = .vx → (15 : Reg).val = (0xF00 : Addr).toNat / 256) ∧
      (0xF00 : Addr).toNat + vxState.v[(15 : Reg)].toNat ≤ 0xFFF ∧
      ((0xF00 : Addr).toNat + vxState.v[(15 : Reg)].toNat) % 2 = 0) := by decide

/-- One input for each clause; the last two are CF22 (1000, one past the top) and CF18 (odd). -/
theorem witness_ControlFlowFaults :
    (0xFFF : Addr).toNat % 2 = 1 ∧ ((0x300 : Addr).toNat % 2 = 0 ∧ (stackOf 16).sp.val = 16) ∧ (stackOf 0).sp.val = 0 ∧
    ((vxState.cfg.jumpQuirk = .v0 → (15 : Reg) = 0) ∧
      (vxState.cfg.jumpQuirk = .vx → (15 : Reg).val = (0xF02 : Addr).toNat / 256) ∧
      (0xF02 : Addr).toNat + vxState.v[(15 : Reg)].toNat = 0x1000) ∧
    (((withRegs [(0, 1)]).cfg.jumpQuirk = .vx → (0 : Reg).val = (0x300 : Addr).toNat / 256) ∧
      ((0x300 : Addr).toNat + (withRegs [(0, 1)]).v[(0 : Reg)].toNat) % 2 = 1) := by decide

theorem witness_ShiftsMoveOneBitOut :
    ((State.reset.cfg.shiftQuirk = .vxOnly → (1 : Reg) = 1) ∧ (State.reset.cfg.shiftQuirk = .vyToVx → (1 : Reg) = 2)) ∧
    ((vyToVx.cfg.shiftQuirk = .vxOnly → (2 : Reg) = 1) ∧ (vyToVx.cfg.shiftQuirk = .vyToVx → (2 : Reg) = 2)) := by decide

theorem witness_OnlyNamedRegistersChange :
    (∃ t, exec (.ldImm 3 5) State.reset = .next t ∧ ¬mayWriteReg (.ldImm 3 5) 15) ∧
    (∃ t, exec (.ldRegs 14) State.reset = .next t ∧ ¬mayWriteReg (.ldRegs 14) 15) :=
  ⟨⟨_, rfl, by show ¬(15 : Fin 16) = 3; decide⟩, _, rfl, by show ¬(15 : Fin 16) ≤ 14; decide⟩

theorem witness_FlagIsZeroOrOne :
    (∃ t, (Instr.drw 1 2 0) ∈ [.addReg 1 2, .sub 1 2, .subn 1 2, .shr 1 2, .shl 1 2, .drw 1 2 0] ∧
      exec (.drw 1 2 0) State.reset = .next t) ∧
    (∃ t, (Instr.shl 15 15) ∈ [.addReg 15 15, .sub 15 15, .subn 15 15, .shr 15 15, .shl 15 15, .drw 15 15 0] ∧
      exec (.shl 15 15) State.reset = .next t) :=
  ⟨⟨_, by decide, rfl⟩, _, by decide, rfl⟩

/-- Memory with two bytes listed is in canonical form, and address 0x301 lies outside a store of three bytes at 0xFFE. -/
theorem witness_StoreDecimalDigits :
    Memory.wf (at200 0x6005).mem ∧ ∀ k < 3, 0x301 % 4096 ≠ ({ at200 0x6005 with i := 0xFFE }.i.toNat + k) % 4096 := by
  decide

/-- The last register stored, and an address just past the stored bytes. -/
theorem witness_StoreRegisters :
    Memory.wf (at200 0x6005).mem ∧ (15 : Reg) ≤ 15 ∧
    ∀ k ≤ (15 : Reg).val, 0x310 % 4096 ≠ ({ at200 0x6005 with i := 0x300 }.i.toNat + k) % 4096 := by decide

/-- For each clause a stored byte at the edge of the word: at `PC` the last byte of a run that begins before it (`I` = 0x1FF and
0x1FE), at `PC + 1` the first byte of a run; and `I` and `PC` 4096 apart. -/
theorem witness_StoreIsSeenByNextFetch :
    Memory.wf (at200 0x6005).mem ∧
    ((1 : Reg) ≤ 1 ∧ ({ State.reset with i := 0x1FF }.i.toNat + (1 : Reg).val) % 4096 = State.reset.pc.toNat % 4096) ∧
    ((0 : Reg) ≤ 0 ∧ ({ State.reset with i := 0x1200 }.i.toNat + (0 : Reg).val) % 4096 = State.reset.pc.toNat % 4096) ∧
    ((0 : Reg) ≤ 0 ∧ ({ State.reset with i := 0x201 }.i.toNat + (0 : Reg).val) % 4096 = (State.reset.pc.toNat + 1) % 4096) ∧
    ({ State.reset with i := 0x1FE }.i.toNat + (2 : Fin 3).val) % 4096 = State.reset.pc.toNat % 4096 ∧
    ({ State.reset with i := 0x201 }.i.toNat + (0 : Fin 3).val) % 4096 = (State.reset.pc.toNat + 1) % 4096 := by decide

/-- The digit that the premises of the `LD B` clauses name, for each place. -/
theorem witness_digit (v : Byte) (k : Fin 3) : ∃ digit : Nat,
    (k = 0 → digit = v.toNat / 100) ∧ (k = 1 → digit = v.toNat / 10 % 10) ∧ (k = 2 → digit = v.toNat % 10) :=
  match k with
  | 0 => ⟨v.toNat / 100, by simp⟩
  | 1 => ⟨v.toNat / 10 % 10, by simp⟩
  | 2 => ⟨v.toNat % 10, by simp⟩

/-- A byte written and then written back: two ways to the empty list. -/
theorem witness_CanonicalMemoryIsUnique :
    Memory.wf (Memory.write (Memory.write [] 0x300 7) 0x300 0) ∧ Memory.wf [] ∧
    ∀ a, Memory.read (Memory.write (Memory.write [] 0x300 7) 0x300 0) a = Memory.read [] a :=
  ⟨by decide, by decide, fun _ => rfl⟩

/-- W5: the pixel (0, 31) is the sprite's second, beyond the right edge; (1, 31) is no pixel of it. -/
theorem witness_DrawXorsSpriteAndReportsCollision :
    spriteSets (withRegs [(0, 0xFF), (1, 0xFF)] (withSprite [0xC0])) 0 1 1 0 31 ∧
    ¬spriteSets (withRegs [(0, 0xFF), (1, 0xFF)] (withSprite [0xC0])) 0 1 1 1 31 := by
  unfold spriteSets
  decide

/-- W13, the second draw collides; W7, nothing does. -/
theorem witness_collision_and_none :
    (∃ px py, { withSprite [0x80] with fb := Display.blank.flip 0 0 }.pixelAt px py = true ∧
      ∃ t, exec (.drw 0 0 1) { withSprite [0x80] with fb := Display.blank.flip 0 0 } = .next t ∧ t.pixelAt px py = false) ∧
    (∃ t, exec (.drw 0 0 0) (withSprite [0x80]) = .next t ∧ ∀ px py, (withSprite [0x80]).pixelAt px py = false) :=
  ⟨⟨0, 0, by decide, _, rfl, by decide⟩, _, rfl, fun _ _ => Display.pixel_blank _ _⟩

theorem witness_DrawingTwiceRestoresDisplay :
    (List.replicate 15 (0xFF : Byte)).length ≤ 15 ∧ ∃ b ∈ List.replicate 15 (0xFF : Byte), b ≠ 0 := by decide

theorem witness_LoadIndexLiteral : (0xA000 : Word).toNat / 4096 = 0xA ∧ (0xAFFF : Word).toNat / 4096 = 0xA := by decide

theorem witness_OnlyClsAndDrwChangeDisplay :
    ∃ t, exec (.ldI 0x300) State.reset = .next t ∧ (Instr.ldI 0x300) ≠ .cls ∧ ∀ x y n, (Instr.ldI 0x300) ≠ .drw x y n :=
  ⟨_, rfl, by decide, fun _ _ _ => by simp⟩

/-- One counter at 0, the other at its largest. -/
theorem witness_TickCountsEachTimerDown :
    { State.reset with dt := 0, st := 0xFF }.dt.toNat = 0 ∧ { State.reset with dt := 0, st := 0xFF }.st.toNat > 0 := by
  decide

theorem witness_TicksReachZeroAndStay :
    { State.reset with inputs := List.replicate 7 .timerTick, dt := 5 }.inputs = List.replicate 7 .timerTick ++ [] := by
  decide

/-- A press that is latched, and one that is not because the key was down. -/
theorem witness_KeyEventSetsLevelAndLatch :
    (waiting.run = .waitKey ∧ waiting.keys[(0xB : Key)] = false ∧ waiting.hitValid = false) ∧
    ¬(latched.keys[(0xB : Key)] = false) := by decide

theorem witness_WaitingStepPollsTheLatch :
    (waiting.run = .waitKey ∧ waiting.hitValid = false) ∧ (latched.run = .waitKey ∧ latched.hitValid = true) := by
  decide

theorem witness_KeyWaitDeliversPressedKey :
    { at200 0xF30A with inputs := [.step 1, .step 2, .keyEvent 0xB true, .step 3] }.run = .running ∧
    decode { at200 0xF30A with inputs := [.step 1, .step 2, .keyEvent 0xB true, .step 3] }.fetchWord = .ok (.ldVxK 3) ∧
    (at200 0xF30A).keys[(0xB : Key)] = false ∧
    { at200 0xF30A with inputs := [.step 1, .step 2, .keyEvent 0xB true, .step 3] }.inputs =
      .step 1 :: (([2] : List Byte).map Input.step ++ .keyEvent 0xB true :: .step 3 :: []) := ⟨rfl, rfl, rfl, rfl⟩

/-- A stop of each kind: an image one byte too long, a font one byte too high. -/
theorem witness_OnlyPowerOnStops :
    (∃ f, step { State.reset with inputs := [.powerOn defaultCfg (List.replicate 3585 0)] } = .fault f) ∧
    (∃ r, step { State.reset with inputs := [.powerOn { defaultCfg with fontBase := 0x1B1 } []] } = .refused r) :=
  ⟨⟨_, test_power_on_refusals.1⟩, _, rfl⟩

theorem witness_SpecialStateHasItsWriters :
    (∃ t, exec (.jp 0x300) State.reset = .next t) ∧ (∃ t, exec (.call 0x300) State.reset = .next t) := ⟨⟨_, rfl⟩, _, rfl⟩

/-- One step for each clause about the wait and about leaving `HALTED`: into the wait, within it, out of it, halted. -/
theorem witness_RunStateTransitions :
    ((at200 0xF30A).run = .running ∧ ∃ t, cpuStep 0 (at200 0xF30A) = .next t ∧ t.run = .waitKey) ∧
    (waiting.run = .waitKey ∧ ∃ t, cpuStep 0 waiting = .next t) ∧ (latched.run = .waitKey ∧ ∃ t, cpuStep 0 latched = .next t) ∧
    ({ State.reset with run := .halted }.run = .halted ∧ ∃ t, cpuStep 0 { State.reset with run := .halted } = .next t) :=
  ⟨⟨rfl, _, rfl, rfl⟩, ⟨rfl, _, rfl⟩, ⟨rfl, _, rfl⟩, rfl, _, rfl⟩

/-- `HALTED` is entered with every cause: `witness_FaultEntryIsPrecise`; here `OutOfRangeJump` by `CALL` and by opcode Bnnn. -/
theorem witness_RunStateTransitions_out_of_range :
    ((at200 0x2FFF).run = .running ∧ ∃ t, cpuStep 0 (at200 0x2FFF) = .next t ∧ t.run = .halted) ∧
    ((at200 0xBFFF).run = .running ∧ ∃ t, cpuStep 0 (at200 0xBFFF) = .next t ∧ t.run = .halted) :=
  ⟨⟨rfl, _, rfl, rfl⟩, rfl, _, rfl, rfl⟩

theorem witness_EventsNeverTouchTheProgram :
    (∃ t, transition .timerTick State.reset = .next t) ∧ (∃ t, transition (.keyEvent 0xF true) waiting = .next t) :=
  ⟨⟨_, rfl⟩, _, rfl⟩

theorem witness_SoundTimerIsUnreadable : ∃ t, exec (.ldVxDt 0) { State.reset with st := 9 } = .next t := ⟨_, rfl⟩

/-- A stack of one entry, and another that differs from it in a dead slot. -/
theorem witness_DeadStackSlotsAreUnreadable :
    (∀ k : Fin 16, k.val < (stackOf 1).sp.val → ((stackOf 1).stack.set 1 0x0DEF)[k] = (stackOf 1).stack[k]) ∧
    (stackOf 1).stack.set 1 0x0DEF ≠ (stackOf 1).stack ∧ ∃ t, exec .ret (stackOf 1) = .next t :=
  ⟨by decide, by decide, _, rfl⟩

theorem witness_SelfJumpLoopsForever :
    (at200 0x1200).atFinalLoop ∧ (at200 0x1200).pc.toNat % 2 = 0 ∧ (at200 0x1200).inputs = [] :=
  ⟨⟨rfl, 0x200, rfl, rfl⟩, rfl, rfl⟩

/-- The longest image and the highest font. -/
theorem witness_PowerOnLoadsFontAndProgram :
    (List.replicate 3584 (0xAA : Byte)).length ≤ 3584 ∧ { defaultCfg with fontBase := 0x1B0 }.fontBase.toNat + 80 ≤ 0x200 := by
  rw [List.length_replicate]
  decide

theorem witness_PowerOnResetsEverything :
    (List.replicate 3585 (0xAA : Byte)).length > 3584 ∧
    ([] : List Byte).length ≤ 3584 ∧ defaultCfg.fontBase.toNat + 80 ≤ 0x200 := by
  rw [List.length_replicate]
  decide

end Sys2Proof.Tests
end

namespace Sys2Proof.Machine

/-- A host's `Step` is the spec's `Step(rnd)` (00_scope.md R9). -/
theorem transition_step (rnd : Byte) (s : State) : transition (.step rnd) s = cpuStep rnd s := rfl

/-- Settles O6, by the two cases of the host's list: an input is listed (`step_cons`), or none is and the step is a `Step` with a
free draw (`step_nil`). -/
theorem stepPerformsNextInput : Obligations.StepPerformsNextInput := by
  intro s
  constructor
  · intro e rest h
    exact step_cons h
  · intro h
    rw [step_nil h, transition_step]

end Sys2Proof.Machine

namespace Sys2Proof.Machine

/-! ### All that an instruction can do -/

/-- All that instruction `i` can do in state `s`, by the pieces of state written (10_state.md R20): the relation between `i` and the
next state. `exec_effect` ties it to the model. -/
inductive Effect (s : State) : Instr → State → Prop
  /-- A fault raised by the instruction (60_exceptions.md R232). -/
  | fault {i : Instr} {kind : FaultKind} (hkind : raisedBy kind i) : Effect s i (s.raise kind (encode i))
  /-- `PC` alone: it stays, skips, or goes to an even target (40_step_and_control_flow.md R125 to R135). -/
  | goto {i : Instr} (w : Word) (hw : w = s.pc ∨ w = s.pc + 2 ∨ w.toNat % 2 = 0) : Effect s i (s.setPc w)
  /-- `CALL` with a slot free (40_step_and_control_flow.md R128). -/
  | call {nnn : Addr} (hnnn : nnn.toNat % 2 = 0) (hsp : s.sp.val < 16) :
      Effect s (.call nnn) { s with
        pc := BitVec.ofNat 16 nnn.toNat, stack := s.stack.set s.sp.val s.pc hsp, sp := ⟨s.sp.val + 1, by omega⟩ }
  /-- `RET` with a return address on the stack (40_step_and_control_flow.md R126). -/
  | ret (hsp : 0 < s.sp.val) :
      Effect s .ret { s with pc := s.stack[s.sp.val - 1]'(by omega), sp := ⟨s.sp.val - 1, by omega⟩ }
  /-- General registers alone, and only those the instruction names (10_state.md R22). -/
  | regs {i : Instr} (v : Vector Byte 16) (hv : ∀ r : Reg, ¬mayWriteReg i r → v[r] = s.v[r]) : Effect s i { s with v := v }
  /-- `CLS` (43_display.md R201). -/
  | clear (fb : Display) : Effect s .cls (s.setFb fb)
  /-- `DRW` (43_display.md R202, R203). -/
  | draw {x y : Reg} {n : Fin 16} (fb : Display) (flag : Byte) : Effect s (.drw x y n) ((s.setFb fb).setV VF flag)
  /-- `I` alone (42_index_and_memory.md R181 to R183). -/
  | index {i : Instr} (w : Word) (hi : (∃ nnn, i = .ldI nnn) ∨ (∃ x, i = .addI x) ∨ ∃ x, i = .ldF x) :
      Effect s i (s.setI w)
  /-- `LD DT, Vx` (44_timer_instructions.md R211). -/
  | delayTimer {x : Reg} (b : Byte) : Effect s (.ldDtVx x) (s.setDt b)
  /-- `LD ST, Vx` (44_timer_instructions.md R212). -/
  | soundTimer {x : Reg} (b : Byte) : Effect s (.ldStVx x) (s.setSt b)
  /-- Memory alone (42_index_and_memory.md R185, R186). -/
  | store {i : Instr} (a : Nat) (bytes : List Byte) (hi : ∃ x, i = .ldB x ∨ i = .stRegs x) : Effect s i (s.writeBytes a bytes)
  /-- `LD Vx, K`, the issue (45_keypad_instructions.md R222). -/
  | wait (x : Reg) : Effect s (.ldVxK x) (s.beginWait x)

variable {i : Instr} {s t : State}

theorem effect_setV {x : Reg} {b : Byte} (hx : mayWriteReg i x) : Effect s i (s.setV x b) :=
  .regs _ fun r hr => (State.getV_setV s x r b).trans (if_neg (by rintro rfl; exact hr hx))

theorem effect_setResultFlag {x : Reg} {b : Byte} {f : Bool} (hx : mayWriteReg i x) (hVF : mayWriteReg i VF) :
    Effect s i (s.setResultFlag x b f) :=
  .regs _ fun r hr => by
    have hrVF : r ≠ VF := by rintro rfl; exact hr hVF
    have hrx : r ≠ x := by rintro rfl; exact hr hx
    exact (State.getV_setResultFlag s x r b f).trans ((if_neg hrVF).trans (if_neg hrx))

theorem effect_skipIf (b : Bool) : Effect s i (s.skipIf b) := by
  rw [State.skipIf_eq]
  cases b
  · exact .goto _ (.inl rfl)
  · exact .goto _ (.inr (.inl rfl))

theorem effect_ldRegs (x : Reg) (b : Reg → Byte) :
    Effect s (.ldRegs x) { s with v := Vector.ofFn fun r => if r ≤ x then b r else s.getV r } :=
  .regs _ fun r hr => by
    rw [Fin.getElem_fin, Vector.getElem_ofFn]
    exact if_neg hr

theorem ofNat_even {n : Nat} (h : n % 2 = 0) : (BitVec.ofNat 16 n).toNat % 2 = 0 := by
  rw [BitVec.toNat_ofNat]
  omega

/-- All that an instruction can do, said once for the whole instruction set. -/
theorem exec_effect (h : exec i s = .next t) : Effect s i t := by
  cases i with
  | cls => cases h; exact .clear _
  | ret =>
    rcases execRet_cases s with ⟨hsp, e⟩ | ⟨_, e⟩ <;> cases e.symm.trans h
    · exact .ret hsp
    · exact .fault (kind := .stackUnderflow) rfl
  | sys nnn => cases h; exact .goto s.pc (.inl rfl)
  | jp nnn =>
    rcases execJp_cases nnn s with ⟨heven, e⟩ | ⟨_, e⟩ <;> cases e.symm.trans h
    · exact .goto _ (.inr (.inr (ofNat_even heven)))
    · exact .fault (kind := .outOfRangeJump) ⟨nnn, .inl rfl⟩
  | call nnn =>
    rcases execCall_cases nnn s with ⟨_, e⟩ | ⟨_, _, e⟩ | ⟨heven, hsp, e⟩ <;> cases e.symm.trans h
    · exact .fault (kind := .outOfRangeJump) ⟨nnn, .inr (.inl rfl)⟩
    · exact .fault (kind := .stackOverflow) ⟨nnn, rfl⟩
    · exact .call heven hsp
  | jpV0 nnn =>
    rcases execJpV0_cases nnn s with ⟨_, heven, e⟩ | ⟨_, e⟩ <;> cases e.symm.trans h
    · exact .goto _ (.inr (.inr (ofNat_even heven)))
    · exact .fault (kind := .outOfRangeJump) ⟨nnn, .inr (.inr rfl)⟩
  | seImm x kk => cases h; exact effect_skipIf _
  | sneImm x kk => cases h; exact effect_skipIf _
  | seReg x y => cases h; exact effect_skipIf _
  | sneReg x y => cases h; exact effect_skipIf _
  | skp x => cases h; exact effect_skipIf _
  | sknp x => cases h; exact effect_skipIf _
  | ldImm x kk => cases h; exact effect_setV rfl
  | addImm x kk => cases h; exact effect_setV rfl
  | ldReg x y => cases h; exact effect_setV rfl
  | orReg x y => cases h; exact effect_setV rfl
  | andReg x y => cases h; exact effect_setV rfl
  | xorReg x y => cases h; exact effect_setV rfl
  | rnd x kk => cases h; exact effect_setV rfl
  | ldVxDt x => cases h; exact effect_setV rfl
  | addReg x y => cases h; exact effect_setResultFlag (.inl rfl) (.inr rfl)
  | sub x y => cases h; exact effect_setResultFlag (.inl rfl) (.inr rfl)
  | subn x y => cases h; exact effect_setResultFlag (.inl rfl) (.inr rfl)
  | shr x y => cases h; exact effect_setResultFlag (.inl rfl) (.inr rfl)
  | shl x y => cases h; exact effect_setResultFlag (.inl rfl) (.inr rfl)
  | drw x y n => cases h; exact .draw _ _
  | ldRegs x => cases h; exact effect_ldRegs x _
  | ldI nnn => cases h; exact .index _ (.inl ⟨nnn, rfl⟩)
  | addI x => cases h; exact .index _ (.inr (.inl ⟨x, rfl⟩))
  | ldF x => cases h; exact .index _ (.inr (.inr ⟨x, rfl⟩))
  | ldB x => cases h; exact .store _ _ ⟨x, .inl rfl⟩
  | stRegs x => cases h; exact .store _ _ ⟨x, .inr rfl⟩
  | ldDtVx x => cases h; exact .delayTimer _
  | ldStVx x => cases h; exact .soundTimer _
  | ldVxK x => cases h; exact .wait x

/-! ### All that a step of the spec can do -/

/-- All that a step can do in `RUNNING` (40_step_and_control_flow.md R120 to R123). -/
theorem cpuStep_running_cases {rnd : Byte} (hrun : s.run = .running) (h : cpuStep rnd s = .next t) :
    (∃ i, decode s.fetchWord = .ok i ∧ exec i (s.advance rnd) = .next t) ∨
    (∃ e, decode s.fetchWord = .error e ∧ t = (s.advance rnd).raise .unknownOpcode s.fetchWord) := by
  rw [cpuStep_running hrun] at h
  cases hdec : decode s.fetchWord with
  | ok i => exact .inl ⟨i, rfl, executeWord_ok hdec _ ▸ h⟩
  | error e =>
    rw [executeWord_error hdec] at h
    cases h
    exact .inr ⟨e, rfl, rfl⟩

/-! ### The invariant (10_state.md R39) -/

/-- Settles O13: the values of 10_state.md R40 meet each clause, and reset memory is canonical (`reset_mem_wf`). -/
theorem resetMeetsInvariant : Obligations.ResetMeetsInvariant where
  pcEven := rfl
  latchWaits := nofun
  causeHalted := ⟨nofun, nofun⟩
  stackEven := nofun
  memWf := reset_mem_wf
  cfgWf := by decide

/-- No latch is set while the machine runs (10_state.md R39 (d)). -/
theorem Inv.hitValid_of_running (hs : Inv s) (hrun : s.run = .running) : s.hitValid = false := by
  by_contra hv
  have hwait := hs.latchWaits (Bool.eq_true_of_not_eq_false hv)
  rw [hrun] at hwait
  cases hwait

/-- No cause is recorded unless the machine is halted (10_state.md R39 (e)). -/
theorem Inv.errCause_of_not_halted (hs : Inv s) (hrun : s.run ≠ .halted) : s.errCause.isSome = false :=
  Bool.eq_false_of_not_eq_true fun hc => hrun (hs.causeHalted.1 hc)

theorem add_two_even {w : Word} (hw : w.toNat % 2 = 0) : (w + 2).toNat % 2 = 0 := by
  rw [BitVec.toNat_add]
  have h2 : (2 : Word).toNat = 2 := rfl
  omega

/-- Writing `PC` keeps the invariant when the new value is even. -/
theorem Inv.setPc (hs : Inv s) {w : Word} (hw : w.toNat % 2 = 0) : Inv (s.setPc w) :=
  { hs with pcEven := hw }

/-- Fault entry keeps the invariant of a running machine (60_exceptions.md R232). -/
theorem Inv.raise (hs : Inv s) (hrun : s.run = .running) (kind : FaultKind) (w : Word) : Inv (s.raise kind w) :=
  { hs with
    latchWaits := fun hv => absurd (hs.hitValid_of_running hrun ▸ hv) Bool.false_ne_true
    causeHalted := ⟨fun _ => rfl, fun _ => rfl⟩ }

/-- A push of the even `PC` keeps every live return address even (10_state.md R39 (f)). -/
theorem Inv.call (hs : Inv s) {w : Word} (hw : w.toNat % 2 = 0) (hsp : s.sp.val < 16) :
    Inv { s with pc := w, stack := s.stack.set s.sp.val s.pc hsp, sp := ⟨s.sp.val + 1, by omega⟩ } :=
  { hs with
    pcEven := hw
    stackEven := fun k hk => by
      simp only [Fin.getElem_fin, Vector.getElem_set]
      split
      · exact hs.pcEven
      · exact hs.stackEven k (by simp only at hk; omega) }

/-- A pop keeps the invariant: the slot popped was live, so the address is even (10_state.md R39 (f)). -/
theorem Inv.ret (hs : Inv s) (hsp : 0 < s.sp.val) :
    Inv { s with pc := s.stack[s.sp.val - 1]'(by omega), sp := ⟨s.sp.val - 1, by omega⟩ } :=
  { hs with
    pcEven := hs.stackEven ⟨s.sp.val - 1, by omega⟩ (by simp only; omega)
    stackEven := fun k hk => hs.stackEven k (by simp only at hk; omega) }

/-- Entering the key wait of a running machine keeps the invariant (45_keypad_instructions.md R222). -/
theorem Inv.beginWait (hs : Inv s) (hrun : s.run = .running) (x : Reg) : Inv (s.beginWait x) :=
  { hs with
    latchWaits := fun _ => rfl
    causeHalted := by
      rw [State.beginWait_errCause, hs.errCause_of_not_halted (by rw [hrun]; nofun)]
      exact ⟨nofun, nofun⟩ }

/-- Leaving the key wait keeps the invariant (45_keypad_instructions.md R223). -/
theorem Inv.endWait (hs : Inv s) (hrun : s.run = .waitKey) : Inv s.endWait :=
  { hs with
    latchWaits := nofun
    causeHalted := by
      rw [State.endWait_errCause, hs.errCause_of_not_halted (by rw [hrun]; nofun)]
      exact ⟨nofun, nofun⟩ }

/-- Every instruction keeps the invariant of a running machine. -/
theorem Inv.exec (hs : Inv s) (hrun : s.run = .running) (h : exec i s = .next t) : Inv t := by
  cases exec_effect h with
  | fault => exact hs.raise hrun _ _
  | goto w hw =>
    refine hs.setPc ?_
    rcases hw with rfl | rfl | hw
    · exact hs.pcEven
    · exact add_two_even hs.pcEven
    · exact hw
  | call hnnn hsp => exact hs.call (ofNat_even hnnn) hsp
  | ret hsp => exact hs.ret hsp
  | store a bytes => exact { hs with memWf := writeBytes_wf hs.memWf a bytes }
  | wait x => exact hs.beginWait hrun x
  | regs | clear | draw | index | delayTimer | soundTimer => exact { hs with }

/-- The advance of `PC` keeps the invariant (40_step_and_control_flow.md R122). -/
theorem Inv.advance (hs : Inv s) (rnd : Byte) : Inv (s.advance rnd) :=
  { hs with pcEven := add_two_even hs.pcEven }

theorem Inv.cpuStep (hs : Inv s) {rnd : Byte} (h : cpuStep rnd s = .next t) : Inv t := by
  cases hrun : s.run with
  | halted =>
    cases (cpuStep_halted hrun rnd).symm.trans h
    exact hs
  | waitKey =>
    cases (cpuStep_waitKey hrun rnd).symm.trans h
    unfold State.pollWait
    split
    · exact hs.endWait hrun
    · exact hs
  | running =>
    rcases cpuStep_running_cases hrun h with ⟨i, -, hexec⟩ | ⟨e, -, rfl⟩
    · exact (hs.advance rnd).exec hrun hexec
    · exact (hs.advance rnd).raise hrun _ _

theorem State.latches_waitKey {k : Key} {p : Bool} (h : s.latches k p = true) : s.run = .waitKey := by
  simp only [State.latches, Bool.and_eq_true, beq_iff_eq] at h
  exact h.1.1.1

/-- A key event keeps the invariant: it fills the latch during a wait only (60_exceptions.md R248). -/
theorem Inv.keyEvent (hs : Inv s) (k : Key) (p : Bool) : Inv (s.keyEvent k p) := by
  rw [State.keyEvent_eq]
  refine { hs with latchWaits := fun hv => ?_ }
  cases hlatch : s.latches k p with
  | true => exact State.latches_waitKey (s := s) hlatch
  | false => exact hs.latchWaits (by simpa [hlatch] using hv)

/-- A power-on establishes the invariant, whatever the state was (70_reset_and_hazards.md R270). -/
theorem inv_poweredOn {cfg : Cfg} (hcfg : cfg.wf) (rom : List Byte) : Inv (s.poweredOn cfg rom) :=
  have hreset : Inv State.reset := resetMeetsInvariant
  { hreset with memWf := loadedMemory_wf cfg rom, cfgWf := hcfg }

theorem Inv.transition (hs : Inv s) {e : Input} (h : transition e s = .next t) : Inv t := by
  cases e with
  | step rnd => exact hs.cpuStep h
  | timerTick => cases h; exact { hs with }
  | keyEvent k p => cases h; exact hs.keyEvent k p
  | powerOn cfg rom =>
    obtain ⟨-, hcfg, rfl⟩ := powerOn_cases h
    exact inv_poweredOn hcfg rom

/-- The invariant does not speak of the host's own side (log entries 1 and 2). -/
theorem Inv.withHostSide (hs : Inv s) (inputs : List Input) (draws : Nat) : Inv { s with inputs := inputs, draws := draws } :=
  { hs with }

/-- Settles O12, through the invariant's lemma for each of the four transitions (`Inv.transition`); taking an input off the list
changes the host's own side alone. -/
theorem stepKeepsInvariant : Obligations.StepKeepsInvariant := by
  intro s t hs h
  cases hin : s.inputs with
  | nil =>
    rw [step_nil hin] at h
    exact (hs.withHostSide s.inputs (s.draws + 1)).cpuStep h
  | cons e rest =>
    rw [step_cons hin] at h
    exact (hs.withHostSide rest s.draws).transition h

/-! ### Who writes what (10_state.md R22, R27 to R35) -/

/-- Settles O29: the effects on registers are `regs`, which carries the claim, and `draw`, which writes VF. -/
theorem onlyNamedRegistersChange : Obligations.OnlyNamedRegistersChange := by
  intro i s t r h hr
  cases exec_effect h with
  | regs v hv => exact hv r hr
  | draw fb flag => exact (State.getV_setV (s.setFb fb) VF r flag).trans (if_neg hr)
  | _ => rfl

/-- Settles O41: the display is written by the effects `clear` and `draw` alone. -/
theorem onlyClsAndDrwChangeDisplay : Obligations.OnlyClsAndDrwChangeDisplay := by
  intro i s t h hcls hdrw
  cases exec_effect h with
  | clear => exact absurd rfl hcls
  | draw => exact absurd rfl (hdrw _ _ _)
  | _ => rfl

theorem exec_i (h : exec i s = .next t) (hldI : ∀ nnn, i ≠ .ldI nnn) (haddI : ∀ x, i ≠ .addI x) (hldF : ∀ x, i ≠ .ldF x) :
    t.i = s.i := by
  cases exec_effect h with
  | index w hi =>
    rcases hi with ⟨nnn, rfl⟩ | ⟨x, rfl⟩ | ⟨x, rfl⟩
    · exact absurd rfl (hldI nnn)
    · exact absurd rfl (haddI x)
    · exact absurd rfl (hldF x)
  | _ => rfl

theorem exec_dt (h : exec i s = .next t) (hldDt : ∀ x, i ≠ .ldDtVx x) : t.dt = s.dt := by
  cases exec_effect h with
  | delayTimer => exact absurd rfl (hldDt _)
  | _ => rfl

theorem exec_st (h : exec i s = .next t) (hldSt : ∀ x, i ≠ .ldStVx x) : t.st = s.st := by
  cases exec_effect h with
  | soundTimer => exact absurd rfl (hldSt _)
  | _ => rfl

theorem exec_mem (h : exec i s = .next t) (hldB : ∀ x, i ≠ .ldB x) (hstRegs : ∀ x, i ≠ .stRegs x) : t.mem = s.mem := by
  cases exec_effect h with
  | store a bytes hi =>
    obtain ⟨x, rfl | rfl⟩ := hi
    · exact absurd rfl (hldB x)
    · exact absurd rfl (hstRegs x)
  | _ => rfl

theorem exec_stack (h : exec i s = .next t) (hcall : ∀ nnn, i ≠ .call nnn) : t.stack = s.stack := by
  cases exec_effect h with
  | call => exact absurd rfl (hcall _)
  | _ => rfl

theorem exec_sp (h : exec i s = .next t) (hcall : ∀ nnn, i ≠ .call nnn) (hret : i ≠ .ret) : t.sp = s.sp := by
  cases exec_effect h with
  | call => exact absurd rfl (hcall _)
  | ret => exact absurd rfl hret
  | _ => rfl

theorem exec_waitReg_hitValid (h : exec i s = .next t) (hldK : ∀ x, i ≠ .ldVxK x) :
    t.waitReg = s.waitReg ∧ t.hitValid = s.hitValid := by
  cases exec_effect h with
  | wait x => exact absurd rfl (hldK x)
  | _ => exact ⟨rfl, rfl⟩

theorem exec_keys_hitKey_cfg (h : exec i s = .next t) : t.keys = s.keys ∧ t.hitKey = s.hitKey ∧ t.cfg = s.cfg := by
  cases exec_effect h <;> exact ⟨rfl, rfl, rfl⟩

/-- Settles O51, one frame lemma for each clause. -/
theorem specialStateHasItsWriters : Obligations.SpecialStateHasItsWriters := by
  intro i s t h
  exact ⟨exec_i h, exec_dt h, exec_st h, fun hldB hstRegs => State.readByte_congr (exec_mem h hldB hstRegs), exec_stack h,
    exec_sp h, exec_waitReg_hitValid h, exec_keys_hitKey_cfg h⟩

/-! ### The flag (10_state.md R22, R39 (c)) -/

theorem flagByte_eq_zero_or_one (f : Bool) : flagByte f = 0 ∨ flagByte f = 1 := by cases f <;> decide

theorem State.setResultFlag_VF (s : State) (x : Reg) (b : Byte) (f : Bool) :
    (s.setResultFlag x b f).v[(15 : Reg)] = flagByte f :=
  (State.getV_setResultFlag s x VF b f).trans (if_pos rfl)

/-- The six instructions that set the flag leave a flag's byte in VF, whatever `x` is. -/
theorem exec_setsFlag {x y : Reg} {n : Fin 16}
    (hi : i ∈ [.addReg x y, .sub x y, .subn x y, .shr x y, .shl x y, .drw x y n]) (h : exec i s = .next t) :
    ∃ f, t.v[(15 : Reg)] = flagByte f := by
  simp only [List.mem_cons, List.not_mem_nil, or_false] at hi
  rcases hi with rfl | rfl | rfl | rfl | rfl | rfl
  · cases h; exact ⟨_, State.setResultFlag_VF s x _ _⟩
  · cases h; exact ⟨_, State.setResultFlag_VF s x _ _⟩
  · cases h; exact ⟨_, State.setResultFlag_VF s x _ _⟩
  · cases h; exact ⟨_, State.setResultFlag_VF s x _ _⟩
  · cases h; exact ⟨_, State.setResultFlag_VF s x _ _⟩
  · cases h; exact ⟨_, State.getV_setV_same _ VF _⟩

/-- Settles O30: what VF holds is a flag's byte (`exec_setsFlag`). -/
theorem flagIsZeroOrOne : Obligations.FlagIsZeroOrOne := by
  intro s t x y n i hi h
  obtain ⟨f, hf⟩ := exec_setsFlag hi h
  rw [hf]
  exact flagByte_eq_zero_or_one f

/-! ### The run state (10_state.md R36) -/

/-- Only `LD Vx, K` puts a running machine into the key wait. -/
theorem exec_waits (hrun : s.run = .running) (h : exec i s = .next t) (ht : t.run = .waitKey) : ∃ x, i = .ldVxK x := by
  cases exec_effect h with
  | wait x => exact ⟨x, rfl⟩
  | fault => cases ht
  | _ => cases hrun.symm.trans ht

theorem cpuStep_waits {rnd : Byte} (hrun : s.run = .running) (h : cpuStep rnd s = .next t) (ht : t.run = .waitKey) :
    ∃ x, decode s.fetchWord = .ok (.ldVxK x) := by
  rcases cpuStep_running_cases hrun h with ⟨i, hdec, hexec⟩ | ⟨e, -, rfl⟩
  · obtain ⟨x, rfl⟩ := exec_waits (s := s.advance rnd) hrun hexec ht
    exact ⟨x, hdec⟩
  · cases ht

/-- A step that halts a running machine records the fault of an undecodable word or of the instruction run (60_exceptions.md
R230). -/
theorem cpuStep_halts {rnd : Byte} (hrun : s.run = .running) (h : cpuStep rnd s = .next t) (ht : t.run = .halted) :
    (t.errCause = some .unknownOpcode ∧ ∃ e, decode s.fetchWord = .error e) ∨
    ∃ kind i, t.errCause = some kind ∧ decode s.fetchWord = .ok i ∧ raisedBy kind i := by
  rcases cpuStep_running_cases hrun h with ⟨i, hdec, hexec⟩ | ⟨e, hdec, rfl⟩
  · have hnot : (s.advance rnd).run ≠ .halted := by rw [State.advance_run, hrun]; nofun
    obtain ⟨kind, hkind, rfl⟩ := exec_halts hnot hexec ht
    exact .inr ⟨kind, i, rfl, hdec, hkind⟩
  · exact .inl ⟨rfl, e, hdec⟩

/-- All that a step can do in `WAIT_KEY` to the run state: the latch decides (45_keypad_instructions.md R223). -/
theorem State.pollWait_run (hrun : s.run = .waitKey) :
    (s.pollWait.run = .running ∧ s.hitValid = true) ∨ (s.pollWait.run = .waitKey ∧ s.hitValid = false) := by
  unfold State.pollWait
  cases s.hitValid
  · exact .inr ⟨hrun, rfl⟩
  · exact .inl ⟨rfl, rfl⟩

/-- Settles O52: a running machine by the word fetched (`cpuStep_waits`, `cpuStep_halts`), a waiting one by its latch. -/
theorem runStateTransitions : Obligations.RunStateTransitions := by
  intro s t rnd h
  refine ⟨fun hrun ht => cpuStep_waits hrun h ht, fun hrun ht => ?_, fun hrun => ?_, fun hrun => ?_⟩
  · rcases cpuStep_halts hrun h ht with hunknown | ⟨kind, i, hcause, hdec, hkind⟩
    · exact .inl hunknown
    · cases kind with
      | unknownOpcode => exact hkind.elim
      | stackOverflow =>
        obtain ⟨nnn, rfl⟩ := hkind
        exact .inr (.inl ⟨hcause, nnn, hdec⟩)
      | stackUnderflow =>
        cases hkind
        exact .inr (.inr (.inl ⟨hcause, hdec⟩))
      | outOfRangeJump =>
        obtain ⟨nnn, rfl | rfl | rfl⟩ := hkind
        · exact .inr (.inr (.inr ⟨hcause, nnn, .inl hdec⟩))
        · exact .inr (.inr (.inr ⟨hcause, nnn, .inr (.inl hdec)⟩))
        · exact .inr (.inr (.inr ⟨hcause, nnn, .inr (.inr hdec)⟩))
  · cases (cpuStep_waitKey hrun rnd).symm.trans h
    exact State.pollWait_run hrun
  · cases (cpuStep_halted hrun rnd).symm.trans h
    exact hrun

/-! ### What no instruction can read (10_state.md R29, R30) -/

/-- The state with other contents in `ST` and in the stack's slots, the two pieces an instruction cannot read or reads only through
`RET`. -/
def State.withHidden (s : State) (b : Byte) (slots : Vector Word 16) : State := { s with st := b, stack := slots }

theorem withHidden_of_stack_eq {slots : Vector Word 16} (h : s.stack = slots) (b : Byte) :
    s.withHidden b slots = { s with st := b } := by
  subst h
  rfl

theorem withHidden_of_st_eq {b : Byte} (h : s.st = b) (slots : Vector Word 16) :
    s.withHidden b slots = { s with stack := slots } := by
  subst h
  rfl

theorem skipIf_withHidden (s : State) (b : Byte) (slots : Vector Word 16) (c : Bool) :
    (s.withHidden b slots).skipIf c = (s.skipIf c).withHidden b slots := by cases c <;> rfl

theorem jumpTo_withHidden (s : State) (b : Byte) (slots : Vector Word 16) (a : Nat) (w : Word) :
    jumpTo a w (s.withHidden b slots) = (jumpTo a w s).withHidden b slots := by
  unfold jumpTo
  split <;> rfl

/-- Every instruction but `CALL`, `RET` and `LD ST, Vx` does the same whatever `ST` and the stack's slots hold, and keeps both. -/
theorem exec_withHidden (h : exec i s = .next t) (hcall : ∀ nnn, i ≠ .call nnn) (hret : i ≠ .ret) (hst : ∀ x, i ≠ .ldStVx x)
    (b : Byte) (slots : Vector Word 16) : exec i (s.withHidden b slots) = .next (t.withHidden b slots) := by
  cases i with
  | call nnn => exact absurd rfl (hcall nnn)
  | ret => exact absurd rfl hret
  | ldStVx x => exact absurd rfl (hst x)
  | jp nnn => cases h; exact congrArg _ (jumpTo_withHidden s b slots _ _)
  | jpV0 nnn => cases h; exact congrArg _ (jumpTo_withHidden s b slots _ _)
  | seImm x kk => cases h; exact congrArg _ (skipIf_withHidden s b slots _)
  | sneImm x kk => cases h; exact congrArg _ (skipIf_withHidden s b slots _)
  | seReg x y => cases h; exact congrArg _ (skipIf_withHidden s b slots _)
  | sneReg x y => cases h; exact congrArg _ (skipIf_withHidden s b slots _)
  | skp x => cases h; exact congrArg _ (skipIf_withHidden s b slots _)
  | sknp x => cases h; exact congrArg _ (skipIf_withHidden s b slots _)
  | _ => cases h; rfl

theorem execRet_of_pos (hsp : 0 < s.sp.val) :
    execRet s = .next { s with pc := s.stack[s.sp.val - 1]'(by omega), sp := ⟨s.sp.val - 1, by omega⟩ } := by
  rcases execRet_cases s with ⟨_, e⟩ | ⟨h0, _⟩
  · exact e
  · omega

theorem execRet_of_empty (hsp : s.sp.val = 0) : execRet s = .next (s.raise .stackUnderflow (encode .ret)) := by
  rcases execRet_cases s with ⟨hpos, _⟩ | ⟨_, e⟩
  · omega
  · exact e

theorem execCall_of_odd {nnn : Addr} (hodd : nnn.toNat % 2 = 1) :
    execCall nnn s = .next (s.raise .outOfRangeJump (encode (.call nnn))) := by
  rcases execCall_cases nnn s with ⟨_, e⟩ | ⟨heven, _, _⟩ | ⟨heven, _⟩
  · exact e
  · omega
  · omega

theorem execCall_of_full {nnn : Addr} (heven : nnn.toNat % 2 = 0) (hsp : s.sp.val = 16) :
    execCall nnn s = .next (s.raise .stackOverflow (encode (.call nnn))) := by
  rcases execCall_cases nnn s with ⟨hodd, _⟩ | ⟨_, _, e⟩ | ⟨_, hlt, _⟩
  · omega
  · exact e
  · omega

theorem execCall_of_lt {nnn : Addr} (heven : nnn.toNat % 2 = 0) (hsp : s.sp.val < 16) :
    execCall nnn s = .next { s with
      pc := BitVec.ofNat 16 nnn.toNat, stack := s.stack.set s.sp.val s.pc hsp, sp := ⟨s.sp.val + 1, by omega⟩ } := by
  rcases execCall_cases nnn s with ⟨hodd, _⟩ | ⟨_, hfull, _⟩ | ⟨_, _, e⟩
  · omega
  · omega
  · exact e

/-- Settles O54: `CALL` and `RET` decide by the target and `SP`, `LD ST, Vx` overwrites the difference, and every other instruction
carries it along (`exec_withHidden`). -/
theorem soundTimerIsUnreadable : Obligations.SoundTimerIsUnreadable := by
  intro i s t b h
  cases i with
  | call nnn =>
    refine ⟨b, ?_⟩
    rcases execCall_cases nnn s with ⟨hodd, e⟩ | ⟨heven, hsp, e⟩ | ⟨heven, hsp, e⟩ <;> cases e.symm.trans h
    · exact execCall_of_odd hodd
    · exact execCall_of_full (s := { s with st := b }) heven hsp
    · exact execCall_of_lt (s := { s with st := b }) heven hsp
  | ret =>
    refine ⟨b, ?_⟩
    rcases execRet_cases s with ⟨hsp, e⟩ | ⟨hsp, e⟩ <;> cases e.symm.trans h
    · exact execRet_of_pos (s := { s with st := b }) hsp
    · exact execRet_of_empty (s := { s with st := b }) hsp
  | ldStVx x => cases h; exact ⟨s.getV x, rfl⟩
  | _ =>
    have hstack : t.stack = s.stack := exec_stack h nofun
    have hexec := exec_withHidden h nofun nofun nofun b s.stack
    rw [withHidden_of_stack_eq rfl, withHidden_of_stack_eq hstack] at hexec
    exact ⟨b, hexec⟩

/-- A push into slot `n` keeps the agreement of two stacks on the slots below `n`, and adds slot `n` to it. -/
theorem set_agrees {slots stack : Vector Word 16} {n : Nat} (hn : n < 16) (w : Word)
    (hlive : ∀ k : Fin 16, k.val < n → slots[k] = stack[k]) (k : Fin 16) (hk : k.val < n + 1) :
    (slots.set n w hn)[k] = (stack.set n w hn)[k] := by
  simp only [Fin.getElem_fin, Vector.getElem_set]
  split
  · rfl
  · exact hlive k (by omega)

/-- Settles O55: `CALL` writes the slot that it makes live, `RET` reads a live slot, and every other instruction carries the slots
along (`exec_withHidden`). -/
theorem deadStackSlotsAreUnreadable : Obligations.DeadStackSlotsAreUnreadable := by
  intro i s t slots hlive h
  cases i with
  | call nnn =>
    rcases execCall_cases nnn s with ⟨hodd, e⟩ | ⟨heven, hsp, e⟩ | ⟨heven, hsp, e⟩ <;> cases e.symm.trans h
    · exact ⟨slots, execCall_of_odd hodd, hlive⟩
    · exact ⟨slots, execCall_of_full (s := { s with stack := slots }) heven hsp, hlive⟩
    · exact ⟨slots.set s.sp.val s.pc hsp, execCall_of_lt (s := { s with stack := slots }) heven hsp, set_agrees hsp s.pc hlive⟩
  | ret =>
    refine ⟨slots, ?_⟩
    rcases execRet_cases s with ⟨hsp, e⟩ | ⟨hsp, e⟩ <;> cases e.symm.trans h
    · have htop : slots[s.sp.val - 1] = s.stack[s.sp.val - 1] := hlive ⟨s.sp.val - 1, by omega⟩ (by simp only; omega)
      have hexec := execRet_of_pos (s := { s with stack := slots }) hsp
      simp only [htop] at hexec
      exact ⟨hexec, fun k hk => hlive k (by simp only at hk; omega)⟩
    · exact ⟨execRet_of_empty (s := { s with stack := slots }) hsp, hlive⟩
  | ldStVx x => cases h; exact ⟨slots, rfl, hlive⟩
  | _ =>
    have hst : t.st = s.st := exec_st h nofun
    have hstack : t.stack = s.stack := exec_stack h nofun
    have hsp : t.sp = s.sp := exec_sp h nofun nofun
    have hexec := exec_withHidden h nofun nofun nofun s.st slots
    rw [withHidden_of_st_eq rfl, withHidden_of_st_eq hst] at hexec
    refine ⟨slots, hexec, ?_⟩
    rwa [hsp, hstack]

end Sys2Proof.Machine

namespace Sys2Proof.Machine

/-! ### Cells and reads (20_memory.md R60, R61, log entry 9) -/

/-- The cells of a list with rising addresses are what `Memory.lookup` finds. -/
theorem mem_iff_lookup {m : Memory} (hm : m.Pairwise fun c d => c.1 < d.1) (a : Nat) (b : Byte) :
    (a, b) ∈ m ↔ Memory.lookup m a = some b := by
  induction m with
  | nil => simp [Memory.lookup]
  | cons c rest ih =>
    obtain ⟨k, w⟩ := c
    obtain ⟨hk, hrest⟩ := List.pairwise_cons.1 hm
    rw [List.mem_cons, Memory.lookup]
    split_ifs with hak
    · subst hak
      have hnot : (a, b) ∉ rest := fun hc => Nat.lt_irrefl a (hk _ hc)
      simp [hnot, eq_comm]
    · simp [hak, ih hrest]

/-- A canonical memory lists exactly the bytes that differ from what their address reads as unlisted. -/
theorem mem_iff_read {m : Memory} (hm : Memory.wf m) (a : Nat) (b : Byte) :
    (a, b) ∈ m ↔ a < memSize ∧ Memory.read m a = b ∧ b ≠ unlistedByte a := by
  obtain ⟨hrising, hcells⟩ := hm
  constructor
  · intro hc
    obtain ⟨hlt, hb⟩ := hcells _ hc
    refine ⟨hlt, ?_, hb⟩
    rw [Memory.read, phys_of_lt hlt, (mem_iff_lookup hrising a b).1 hc, Option.getD_some]
  · rintro ⟨hlt, hread, hb⟩
    rw [Memory.read, phys_of_lt hlt] at hread
    rw [mem_iff_lookup hrising]
    cases hlookup : Memory.lookup m a with
    | none => exact absurd (by simpa [hlookup] using hread.symm) hb
    | some c => simpa [hlookup] using hread

/-- Settles O37: reading decides which cells a canonical memory lists (`mem_iff_read`), and a list with rising addresses is
determined by its cells. -/
theorem canonicalMemoryIsUnique : Obligations.CanonicalMemoryIsUnique := by
  intro m n hm hn hread
  refine hm.1.eq_of_mem_iff hn.1 fun c => ?_
  obtain ⟨a, b⟩ := c
  rw [mem_iff_read hm, mem_iff_read hn, hread]

/-! ### Stores and the next fetch (20_memory.md R73) -/

/-- The state after a run of stores reads its `k`-th byte at its `k`-th address. -/
theorem State.readByte_writeBytes {s : State} (hm : Memory.wf s.mem) {a k : Nat} {bytes : List Byte} (hk : k < bytes.length)
    (hlen : bytes.length ≤ memSize) : (s.writeBytes a bytes).readByte (a + k) = bytes[k] :=
  read_writeBytes_inside hm hk hlen

/-- The word fetched after a run of stores has the `k`-th byte stored as its high byte if that byte went to `PC`, and as its low
byte if it went to `PC + 1`. -/
theorem State.fetchWord_writeBytes {s : State} (hm : Memory.wf s.mem) {a k : Nat} {bytes : List Byte} (hk : k < bytes.length)
    (hlen : bytes.length ≤ memSize) :
    ((a + k) % 4096 = s.pc.toNat % 4096 → (s.writeBytes a bytes).fetchWord.toNat / 256 = bytes[k].toNat) ∧
    ((a + k) % 4096 = (s.pc.toNat + 1) % 4096 → (s.writeBytes a bytes).fetchWord.toNat % 256 = bytes[k].toNat) := by
  rw [State.fetchWord_high, State.fetchWord_low, State.writeBytes_pc, ← State.readByte_writeBytes hm hk hlen]
  exact ⟨fun hat => by rw [State.readByte_of_phys _ hat], fun hat => by rw [State.readByte_of_phys _ hat]⟩

@[simp] theorem decimalDigits_length (b : Byte) : (decimalDigits b).length = 3 := rfl

/-- The digits are hundreds, tens and ones (42_index_and_memory.md R185). -/
theorem decimalDigits_toNat (b : Byte) :
    (decimalDigits b)[0].toNat = b.toNat / 100 ∧ (decimalDigits b)[1].toNat = b.toNat / 10 % 10 ∧
    (decimalDigits b)[2].toNat = b.toNat % 10 := by
  have hb := b.isLt
  simp only [decimalDigits, List.getElem_cons_zero, List.getElem_cons_succ, BitVec.toNat_ofNat]
  omega

/-- Settles O36: both instructions are a run of stores at `I` (`State.fetchWord_writeBytes`), whose `k`-th byte is `V[k]`
(`State.regsUpTo_getElem`) or the `k`-th digit (`decimalDigits_toNat`). -/
theorem storeIsSeenByNextFetch : Obligations.StoreIsSeenByNextFetch := by
  intro s x hm
  refine ⟨⟨_, rfl, rfl, fun k hkx => ?_⟩, _, rfl, rfl, fun k digit hundreds tens ones => ?_⟩
  · have hk : k.val < (s.regsUpTo x).length := by
      rw [State.regsUpTo_length]
      exact Nat.lt_succ_of_le hkx
    have hlen : (s.regsUpTo x).length ≤ memSize := by
      rw [State.regsUpTo_length, memSize]
      omega
    have hfetch := State.fetchWord_writeBytes hm (a := s.dataAddr 0) hk hlen
    rwa [State.regsUpTo_getElem] at hfetch
  · have hdigit : (decimalDigits (s.getV x))[k.val].toNat = digit := by
      obtain ⟨h0, h1, h2⟩ := decimalDigits_toNat (s.getV x)
      match k with
      | 0 => exact h0.trans (hundreds rfl).symm
      | 1 => exact h1.trans (tens rfl).symm
      | 2 => exact h2.trans (ones rfl).symm
    rw [← hdigit]
    exact State.fetchWord_writeBytes hm k.isLt (by simp [memSize])

end Sys2Proof.Machine

namespace Sys2Proof

variable {w : Word}

/-! ### A word is put together again from its fields (30_encoding.md R92) -/

theorem formatA_fields {op : BitVec 4} (hop : fieldOp w = op.toNat) : formatA op (fieldNNN w) = w := by
  apply BitVec.eq_of_toNat_eq
  rw [formatA_toNat, fieldNNN_toNat, ← hop, fieldOp_eq]
  omega

theorem formatI_fields {op : BitVec 4} (hop : fieldOp w = op.toNat) : formatI op (fieldX w) (fieldKK w) = w := by
  apply BitVec.eq_of_toNat_eq
  rw [formatI_toNat, fieldX_val, fieldKK_toNat, ← hop, fieldOp_eq]
  omega

theorem formatX_fields {op : BitVec 4} {ss : Byte} (hop : fieldOp w = op.toNat) (hss : fieldKK w = ss) :
    formatX op (fieldX w) ss = w :=
  hss ▸ formatI_fields hop

theorem formatR_fields {op : BitVec 4} {n : Fin 16} (hop : fieldOp w = op.toNat) (hn : (fieldN w).val = n.val) :
    formatR op (fieldX w) (fieldY w) n = w := by
  apply BitVec.eq_of_toNat_eq
  rw [formatR_toNat, fieldX_val, fieldY_val, ← hn, fieldN_val, ← hop, fieldOp_eq]
  omega

/-! ### What a word decodes to has that word (30_encoding.md R94, R95) -/

/-- `w` is the word of the well-formed instruction `i`. -/
def IsWordOf (w : Word) (i : Instr) : Prop := i.wf = true ∧ encode i = w

theorem fieldOp_lt (w : Word) : fieldOp w < 16 := BitVec.isLt _

/-- A `SYS` word other than the words of `CLS` and `RET` has a literal that `SYS` may have. -/
theorem sys_fieldNNN_wf (hop : fieldOp w = 0) (hcls : w ≠ 0x00E0#16) (hret : w ≠ 0x00EE#16) :
    (Instr.sys (fieldNNN w)).wf = true := by
  have hw : formatA 0#4 (fieldNNN w) = w := formatA_fields hop
  simp only [Instr.wf, Bool.and_eq_true, bne_iff_ne]
  exact ⟨fun h => hcls (by rw [← hw, h]; rfl), fun h => hret (by rw [← hw, h]; rfl)⟩

variable {i : Instr}

theorem isWordOf_of_decode0 (hop : fieldOp w = 0x0) (h : decode0 w = .ok i) : IsWordOf w i := by
  unfold decode0 at h
  split at h
  · next hw => cases h; exact ⟨rfl, hw.symm⟩
  split at h
  · next hw => cases h; exact ⟨rfl, hw.symm⟩
  · next hcls hret => cases h; exact ⟨sys_fieldNNN_wf hop hcls hret, formatA_fields hop⟩

theorem isWordOf_of_decode8 (hop : fieldOp w = 0x8) (h : decode8 w = .ok i) : IsWordOf w i := by
  unfold decode8 at h
  split at h <;> cases h
  all_goals exact ⟨rfl, formatR_fields hop ‹_›⟩

theorem isWordOf_of_decodeE (hop : fieldOp w = 0xE) (h : decodeE w = .ok i) : IsWordOf w i := by
  unfold decodeE at h
  split_ifs at h <;> cases h
  all_goals exact ⟨rfl, formatX_fields hop ‹_›⟩

theorem isWordOf_of_decodeF (hop : fieldOp w = 0xF) (h : decodeF w = .ok i) : IsWordOf w i := by
  unfold decodeF at h
  split_ifs at h <;> cases h
  all_goals exact ⟨rfl, formatX_fields hop ‹_›⟩

theorem isWordOf_of_decode (h : decode w = .ok i) : IsWordOf w i := by
  have hlt := fieldOp_lt w
  unfold decode at h
  split at h
  case h_1 hop => exact isWordOf_of_decode0 hop h
  case h_2 hop | h_3 hop | h_11 hop | h_12 hop => cases h; exact ⟨rfl, formatA_fields hop⟩
  case h_4 hop | h_5 hop | h_7 hop | h_8 hop | h_13 hop => cases h; exact ⟨rfl, formatI_fields hop⟩
  case h_6 hop | h_10 hop =>
    split_ifs at h with hn
    cases h
    exact ⟨rfl, formatR_fields hop hn⟩
  case h_9 hop => exact isWordOf_of_decode8 hop h
  case h_14 hop => cases h; exact ⟨rfl, formatR_fields hop rfl⟩
  case h_15 hop => exact isWordOf_of_decodeE hop h
  case h_16 =>
    have hop : fieldOp w = 0xF := by simp only [imp_false] at *; omega
    exact isWordOf_of_decodeF hop h

/-- Settles O3, by the decoder's cases on the leading nibble: each of them puts the word together again from the fields it reads
(`formatA_fields` and its like). -/
theorem encodeOfDecode : Obligations.EncodeOfDecode := fun _ _ h => isWordOf_of_decode h

/-! ### A mask keeps the fields it covers (30_encoding.md R95) -/

theorem fieldOp_and_F000 (w : Word) : fieldOp (w &&& 0xF000#16) = fieldOp w := by
  rw [fieldOp_eq, fieldOp_eq, and_F000_toNat]
  omega

theorem fieldOp_and_F00F (w : Word) : fieldOp (w &&& 0xF00F#16) = fieldOp w := by
  rw [fieldOp_eq, fieldOp_eq, and_F00F_toNat]
  omega

theorem fieldN_and_F00F (w : Word) : fieldN (w &&& 0xF00F#16) = fieldN w := by
  apply Fin.ext
  rw [fieldN_val, fieldN_val, and_F00F_toNat]
  omega

theorem fieldOp_and_F0FF (w : Word) : fieldOp (w &&& 0xF0FF#16) = fieldOp w := by
  rw [fieldOp_eq, fieldOp_eq, and_F0FF_toNat]
  omega

theorem fieldKK_and_F0FF (w : Word) : fieldKK (w &&& 0xF0FF#16) = fieldKK w := by
  apply BitVec.eq_of_toNat_eq
  rw [fieldKK_toNat, fieldKK_toNat, and_F0FF_toNat]
  omega

/-! ### The decoder agrees with each row of the opcode map (30_encoding.md R95) -/

/-- The decoder gives what the row builds, for every word that matches the row; a word that the row reads as `SYS` must not be that
of `CLS` or `RET`, whose rows stand before. -/
def RowDecodes (r : OpcodeRow) : Prop :=
  ∀ w : Word, w &&& r.mask = r.pattern → (∀ nnn, r.build w = .sys nnn → w ≠ 0x00E0#16 ∧ w ≠ 0x00EE#16) →
    decode w = .ok (r.build w)

variable {p : Word} {build : Word → Instr}

/-- A row that fixes the whole word. -/
theorem RowDecodes.ofWord (h : decode p = .ok (build p)) : RowDecodes ⟨0xFFFF, p, build⟩ := by
  intro w hw _
  obtain rfl : w = p := (and_FFFF w).symm.trans hw
  exact h

/-- A row that fixes the leading nibble alone. -/
theorem RowDecodes.ofOp (h : ∀ w, fieldOp w = fieldOp p → decode w = .ok (build w)) : RowDecodes ⟨0xF000, p, build⟩ :=
  fun w hw _ => h w ((fieldOp_and_F000 w).symm.trans (congrArg fieldOp hw))

/-- A row that fixes the leading and the trailing nibble. -/
theorem RowDecodes.ofOpN (h : ∀ w, fieldOp w = fieldOp p → fieldN w = fieldN p → decode w = .ok (build w)) :
    RowDecodes ⟨0xF00F, p, build⟩ :=
  fun w hw _ => h w ((fieldOp_and_F00F w).symm.trans (congrArg fieldOp hw))
    ((fieldN_and_F00F w).symm.trans (congrArg fieldN hw))

/-- A row that fixes the leading nibble and the trailing byte. -/
theorem RowDecodes.ofOpKK (h : ∀ w, fieldOp w = fieldOp p → fieldKK w = fieldKK p → decode w = .ok (build w)) :
    RowDecodes ⟨0xF0FF, p, build⟩ :=
  fun w hw _ => h w ((fieldOp_and_F0FF w).symm.trans (congrArg fieldOp hw))
    ((fieldKK_and_F0FF w).symm.trans (congrArg fieldKK hw))

theorem rowDecodes_sys : RowDecodes ⟨0xF000, 0x0000, fun w => .sys (fieldNNN w)⟩ := by
  intro w hw hsys
  obtain ⟨hcls, hret⟩ := hsys _ rfl
  have hop : fieldOp w = 0x0 := (fieldOp_and_F000 w).symm.trans (congrArg fieldOp hw)
  simp only [decode, hop, decode0, hcls, hret, if_false]

theorem rowDecodes_opcodeMapAE : ∀ r ∈ opcodeMapAE, RowDecodes r := by
  simp only [opcodeMapAE, List.forall_mem_cons]
  refine ⟨.ofWord rfl, .ofWord rfl, rowDecodes_sys, .ofOp ?_, .ofOp ?_, .ofOp ?_, .ofOp ?_, List.forall_mem_nil _⟩
  all_goals
    intro w hop
    unfold decode
    rewrite [hop]
    rfl

theorem rowDecodes_opcodeMapI : ∀ r ∈ opcodeMapI, RowDecodes r := by
  simp only [opcodeMapI, List.forall_mem_cons]
  refine ⟨.ofOp ?_, .ofOp ?_, .ofOp ?_, .ofOp ?_, .ofOp ?_, List.forall_mem_nil _⟩
  all_goals
    intro w hop
    unfold decode
    rewrite [hop]
    rfl

theorem rowDecodes_opcodeMapRD : ∀ r ∈ opcodeMapRD, RowDecodes r := by
  simp only [opcodeMapRD, List.forall_mem_cons]
  refine ⟨.ofOpN ?_, .ofOpN ?_, .ofOpN ?_, .ofOpN ?_, .ofOpN ?_, .ofOpN ?_, .ofOpN ?_, .ofOpN ?_, .ofOpN ?_, .ofOpN ?_,
    .ofOpN ?_, .ofOp ?drw, List.forall_mem_nil _⟩
  case drw =>
    intro w hop
    unfold decode
    rewrite [hop]
    rfl
  all_goals
    intro w hop hn
    unfold decode decode8
    rewrite [hop, hn]
    rfl

theorem rowDecodes_opcodeMapX : ∀ r ∈ opcodeMapX, RowDecodes r := by
  simp only [opcodeMapX, List.forall_mem_cons]
  refine ⟨.ofOpKK ?_, .ofOpKK ?_, .ofOpKK ?_, .ofOpKK ?_, .ofOpKK ?_, .ofOpKK ?_, .ofOpKK ?_, .ofOpKK ?_, .ofOpKK ?_,
    .ofOpKK ?_, .ofOpKK ?_, List.forall_mem_nil _⟩
  all_goals
    intro w hop hkk
    unfold decode decodeE decodeF
    rewrite [hop, hkk]
    rfl

theorem rowDecodes_opcodeMap : ∀ r ∈ opcodeMap, RowDecodes r := by
  simp only [opcodeMap, List.forall_mem_append]
  exact ⟨⟨⟨rowDecodes_opcodeMapAE, rowDecodes_opcodeMapI⟩, rowDecodes_opcodeMapRD⟩, rowDecodes_opcodeMapX⟩

/-- The instruction's word selects a row that builds it back, by its constructor. -/
theorem encode_selects_row (i : Instr) : Laws.EncodeSelectsRow.Statement i := by
  cases i with
  | cls => exact Laws.EncodeSelectsRow.cls
  | ret => exact Laws.EncodeSelectsRow.ret
  | sys nnn => exact Laws.EncodeSelectsRow.sys nnn
  | jp nnn => exact Laws.EncodeSelectsRow.jp nnn
  | call nnn => exact Laws.EncodeSelectsRow.call nnn
  | seImm x kk => exact Laws.EncodeSelectsRow.seImm x kk
  | sneImm x kk => exact Laws.EncodeSelectsRow.sneImm x kk
  | seReg x y => exact Laws.EncodeSelectsRow.seReg x y
  | ldImm x kk => exact Laws.EncodeSelectsRow.ldImm x kk
  | addImm x kk => exact Laws.EncodeSelectsRow.addImm x kk
  | ldReg x y => exact Laws.EncodeSelectsRow.ldReg x y
  | orReg x y => exact Laws.EncodeSelectsRow.orReg x y
  | andReg x y => exact Laws.EncodeSelectsRow.andReg x y
  | xorReg x y => exact Laws.EncodeSelectsRow.xorReg x y
  | addReg x y => exact Laws.EncodeSelectsRow.addReg x y
  | sub x y => exact Laws.EncodeSelectsRow.sub x y
  | shr x y => exact Laws.EncodeSelectsRow.shr x y
  | subn x y => exact Laws.EncodeSelectsRow.subn x y
  | shl x y => exact Laws.EncodeSelectsRow.shl x y
  | sneReg x y => exact Laws.EncodeSelectsRow.sneReg x y
  | ldI nnn => exact Laws.EncodeSelectsRow.ldI nnn
  | jpV0 nnn => exact Laws.EncodeSelectsRow.jpV0 nnn
  | rnd x kk => exact Laws.EncodeSelectsRow.rnd x kk
  | drw x y n => exact Laws.EncodeSelectsRow.drw x y n
  | skp x => exact Laws.EncodeSelectsRow.skp x
  | sknp x => exact Laws.EncodeSelectsRow.sknp x
  | ldVxDt x => exact Laws.EncodeSelectsRow.ldVxDt x
  | ldVxK x => exact Laws.EncodeSelectsRow.ldVxK x
  | ldDtVx x => exact Laws.EncodeSelectsRow.ldDtVx x
  | ldStVx x => exact Laws.EncodeSelectsRow.ldStVx x
  | addI x => exact Laws.EncodeSelectsRow.addI x
  | ldF x => exact Laws.EncodeSelectsRow.ldF x
  | ldB x => exact Laws.EncodeSelectsRow.ldB x
  | stRegs x => exact Laws.EncodeSelectsRow.stRegs x
  | ldRegs x => exact Laws.EncodeSelectsRow.ldRegs x

theorem exists_row_of_encode (i : Instr) :
    ∃ r ∈ opcodeMap, encode i &&& r.mask = r.pattern ∧ r.build (encode i) = i := by
  obtain ⟨k, r, hk, hmatch, hbuild⟩ := encode_selects_row i
  exact ⟨r, List.mem_of_getElem? hk, hmatch, hbuild⟩

/-- The word of a well-formed `SYS` is not that of `CLS` or `RET`. -/
theorem encode_sys_ne {nnn : Addr} (hwf : (Instr.sys nnn).wf = true) :
    encode (.sys nnn) ≠ 0x00E0#16 ∧ encode (.sys nnn) ≠ 0x00EE#16 := by
  have hfield : fieldNNN (encode (.sys nnn)) = nnn := fieldNNN_formatA 0x0#4 nnn
  simp only [Instr.wf, Bool.and_eq_true, bne_iff_ne] at hwf
  exact ⟨fun h => hwf.1 (by rw [← hfield, h]; rfl), fun h => hwf.2 (by rw [← hfield, h]; rfl)⟩

/-- Settles O2: the word selects a row that builds the instruction back (`exists_row_of_encode`), and the decoder gives what that
row builds (`rowDecodes_opcodeMap`). -/
theorem decodeOfEncode : Obligations.DecodeOfEncode := by
  intro i hwf
  obtain ⟨r, hr, hmatch, hbuild⟩ := exists_row_of_encode i
  have hdec := rowDecodes_opcodeMap r hr (encode i) hmatch
  rw [hbuild] at hdec
  exact hdec (by rintro nnn rfl; exact encode_sys_ne hwf)

/-! ### Illegal words (30_encoding.md R96) -/

/-- The five classes of 30_encoding.md R96, by the fields of the word. -/
def IllegalFields (w : Word) : Prop :=
  (fieldOp w = 0x5 ∧ (fieldN w).val ≠ 0) ∨
  (fieldOp w = 0x8 ∧ (fieldN w).val ∈ [0x8, 0x9, 0xA, 0xB, 0xC, 0xD, 0xF]) ∨
  (fieldOp w = 0x9 ∧ (fieldN w).val ≠ 0) ∨
  (fieldOp w = 0xE ∧ (fieldKK w).toNat ∉ [0x9E, 0xA1]) ∨
  (fieldOp w = 0xF ∧ (fieldKK w).toNat ∉ [0x07, 0x0A, 0x15, 0x18, 0x1E, 0x29, 0x33, 0x55, 0x65])

variable {e : DecodeError}

theorem decode8_error (h : decode8 w = .error e) :
    e = .unknownOpcode w ∧ (fieldN w).val ∈ [0x8, 0x9, 0xA, 0xB, 0xC, 0xD, 0xF] := by
  have hlt := (fieldN w).isLt
  unfold decode8 at h
  split at h <;> cases h
  refine ⟨rfl, ?_⟩
  simp only [imp_false, List.mem_cons, List.not_mem_nil, or_false] at *
  omega

theorem decodeE_error (h : decodeE w = .error e) : e = .unknownOpcode w ∧ (fieldKK w).toNat ∉ [0x9E, 0xA1] := by
  unfold decodeE at h
  split_ifs at h
  cases h
  refine ⟨rfl, ?_⟩
  simp_all [← BitVec.toNat_inj]

theorem decodeF_error (h : decodeF w = .error e) :
    e = .unknownOpcode w ∧ (fieldKK w).toNat ∉ [0x07, 0x0A, 0x15, 0x18, 0x1E, 0x29, 0x33, 0x55, 0x65] := by
  unfold decodeF at h
  split_ifs at h
  cases h
  refine ⟨rfl, ?_⟩
  simp_all [← BitVec.toNat_inj]

/-- A decode that fails names its word, and the word is in one of the five classes. -/
theorem decode_error_cases (h : decode w = .error e) : e = .unknownOpcode w ∧ IllegalFields w := by
  have hlt := fieldOp_lt w
  unfold decode at h
  split at h
  case h_1 => unfold decode0 at h; split_ifs at h
  case h_6 hop =>
    split_ifs at h with hn
    cases h
    exact ⟨rfl, .inl ⟨hop, hn⟩⟩
  case h_9 hop => exact (decode8_error h).imp_right fun hn => .inr (.inl ⟨hop, hn⟩)
  case h_10 hop =>
    split_ifs at h with hn
    cases h
    exact ⟨rfl, .inr (.inr (.inl ⟨hop, hn⟩))⟩
  case h_15 hop => exact (decodeE_error h).imp_right fun hkk => .inr (.inr (.inr (.inl ⟨hop, hkk⟩)))
  case h_16 =>
    have hop : fieldOp w = 0xF := by simp only [imp_false] at *; omega
    exact (decodeF_error h).imp_right fun hkk => .inr (.inr (.inr (.inr ⟨hop, hkk⟩)))
  all_goals cases h

theorem decode_of_illegalFields (h : IllegalFields w) : decode w = .error (.unknownOpcode w) := by
  rcases h with ⟨hop, hn⟩ | ⟨hop, hn⟩ | ⟨hop, hn⟩ | ⟨hop, hkk⟩ | ⟨hop, hkk⟩
  · simp only [decode, hop, hn, if_false]
  · simp only [List.mem_cons, List.not_mem_nil, or_false] at hn
    rcases hn with hn | hn | hn | hn | hn | hn | hn <;> simp only [decode, decode8, hop, hn]
  · simp only [decode, hop, hn, if_false]
  · simp_all [decode, decodeE, ← BitVec.toNat_inj]
  · simp_all [decode, decodeF, ← BitVec.toNat_inj]

/-- Settles O5: a decode that fails gives the class (`decode_error_cases`), and a word of a class fails to decode
(`decode_of_illegalFields`). -/
theorem illegalWordsAreTheListedClasses : Obligations.IllegalWordsAreTheListedClasses := by
  intro w
  rw [← fieldOp_eq, ← fieldN_val, ← fieldKK_toNat]
  exact ⟨fun ⟨_, h⟩ => (decode_error_cases h).2, fun h => ⟨_, decode_of_illegalFields h⟩⟩

/-! ### The opcode map as a whole (30_encoding.md R95, R96) -/

/-- Settles O4. The decoder gives what the row found builds (`rowDecodes_opcodeMap`); when no row matches it cannot succeed, since
the word of an instruction matches one (`exists_row_of_encode`). -/
theorem decodeFollowsOpcodeMap : Obligations.DecodeFollowsOpcodeMap := by
  intro w
  by_cases hcls : w = 0x00E0#16
  · subst hcls; rfl
  by_cases hret : w = 0x00EE#16
  · subst hret; rfl
  cases hfind : opcodeMap.find? (fun r => w &&& r.mask == r.pattern) with
  | some r =>
    have hmatch : w &&& r.mask = r.pattern := by simpa using List.find?_some hfind
    exact rowDecodes_opcodeMap r (List.mem_of_find?_eq_some hfind) w hmatch fun _ _ => ⟨hcls, hret⟩
  | none =>
    cases hdec : decode w with
    | ok i =>
      obtain ⟨-, rfl⟩ := isWordOf_of_decode hdec
      obtain ⟨r, hr, hmatch, -⟩ := exists_row_of_encode i
      exact absurd (beq_iff_eq.mpr hmatch) (List.find?_eq_none.mp hfind r hr)
    | error e => rw [(decode_error_cases hdec).1]

/-- Settles O1: each word is evaluated. -/
theorem specExampleWordsDecode : Obligations.SpecExampleWordsDecode :=
  ⟨rfl, rfl, rfl, rfl, rfl, rfl, rfl, rfl, rfl, rfl, rfl, rfl⟩

end Sys2Proof

namespace Sys2Proof.Machine

/-- Fault entry after the advance: `PC` stays advanced and the record holds the address fetched from (60_exceptions.md R231,
R232). -/
theorem State.raise_advance (s : State) (rnd : Byte) (kind : FaultKind) (w : Word) :
    (s.advance rnd).raise kind w = { s with
      pc := s.pc + 2, rnd := rnd, errCause := some kind, errAddr := s.pc, errWord := w, run := .halted } := by
  have haddr : s.pc + 2 - 2 = s.pc := BitVec.add_sub_cancel s.pc 2
  simp only [State.raise, State.advance, haddr]

/-- Settles O8: the step raises `UnknownOpcode` on the advanced state (`executeWord_error`), whose record is that of
`State.raise_advance`. -/
theorem illegalWordHaltsWithRecord : Obligations.IllegalWordHaltsWithRecord := by
  intro s rnd e hrun hdec
  rw [cpuStep_running hrun, executeWord_error hdec, State.raise_advance]

end Sys2Proof.Machine

namespace Sys2Proof.Machine

variable {s : State} {nnn : Addr}

/-! ### The shape of a step (40_step_and_control_flow.md R120 to R123) -/

/-- A running step whose word decodes executes the instruction on the advanced state. -/
theorem cpuStep_of_decode {i : Instr} (hrun : s.run = .running) (hdec : decode s.fetchWord = .ok i) (rnd : Byte) :
    cpuStep rnd s = exec i (s.advance rnd) := by
  rw [cpuStep_running hrun, executeWord_ok hdec]

/-- Settles O7: with or without a listed input the step is a `Step` on a state that has the same run state and fetches the same
word, so `cpuStep_of_decode` applies to it. -/
theorem stepRunsDecodedInstruction : Obligations.StepRunsDecodedInstruction := by
  intro s i hrun hdec
  constructor
  · intro rnd rest hinputs
    rw [step_cons hinputs, transition_step]
    exact cpuStep_of_decode (s := { s with inputs := rest }) hrun hdec rnd
  · intro hinputs
    rw [step_nil hinputs]
    exact cpuStep_of_decode (s := { s with draws := s.draws + 1 }) hrun hdec (Config.freeDraw s.draws)

theorem State.stepResult_of_halted (hrun : s.run = .halted) : s.stepResult = .fault s.errCause := by
  simp only [State.stepResult, hrun]

/-- Settles O10: the poll of a halted machine is the identity (`cpuStep_halted`), and the report is read off the record. -/
theorem haltedStepChangesNothing : Obligations.HaltedStepChangesNothing :=
  fun _ rnd hrun => ⟨cpuStep_halted hrun rnd, State.stepResult_of_halted hrun⟩

/-- Reducing an address first does not change the byte read (20_memory.md R60). -/
theorem State.readByte_mod (s : State) (a : Nat) : s.readByte (a % 4096) = s.readByte a :=
  s.readByte_of_phys (Nat.mod_mod a 4096)

/-- Settles O11: the word is its high byte and its low byte (`State.fetchWord_high`, `State.fetchWord_low`), read at reduced
addresses. -/
theorem fetchReadsBigEndianWord : Obligations.FetchReadsBigEndianWord := by
  intro s
  rw [State.readByte_mod, State.readByte_mod, ← State.fetchWord_high, ← State.fetchWord_low]
  exact (Nat.div_add_mod' s.fetchWord.toNat 256).symm

/-! ### Skips (40_step_and_control_flow.md R131 to R135) -/

/-- A skip on a test, said by the condition the test decides: `PC` alone may change. -/
theorem State.skipIf_of_iff {b : Bool} {p : Prop} [Decidable p] (hb : b = true ↔ p) :
    s.skipIf b = { s with pc := if p then s.pc + 2 else s.pc } := by
  rw [State.skipIf_eq, State.setPc]
  simp only [hb]

/-- Settles O14: each of the four is a skip on its comparison (`State.skipIf_of_iff`). -/
theorem compareSkips : Obligations.CompareSkips := by
  intro s x y kk
  exact ⟨congrArg _ (State.skipIf_of_iff beq_iff_eq), congrArg _ (State.skipIf_of_iff bne_iff_ne),
    congrArg _ (State.skipIf_of_iff beq_iff_eq), congrArg _ (State.skipIf_of_iff bne_iff_ne)⟩

/-- Settles O16: `execSys` answers the state it is given. -/
theorem sysDoesNothing : Obligations.SysDoesNothing := fun _ _ => rfl

/-! ### Jumps (40_step_and_control_flow.md R127, R129, R130) -/

/-- A target in the address space fits in `PC`, whose upper four bits are then 0. -/
theorem toNat_ofNat_of_le {n : Nat} (hn : n ≤ 0xFFF) : (BitVec.ofNat 16 n).toNat = n :=
  Nat.mod_eq_of_lt (by omega)

theorem Addr.toNat_le (nnn : Addr) : nnn.toNat ≤ 0xFFF := Nat.le_of_lt_succ nnn.isLt

theorem execJp_of_even (heven : nnn.toNat % 2 = 0) : execJp nnn s = .next (s.setPc (BitVec.ofNat 16 nnn.toNat)) := by
  rcases execJp_cases nnn s with ⟨_, e⟩ | ⟨hodd, _⟩
  · exact e
  · omega

theorem execJp_of_odd (hodd : nnn.toNat % 2 = 1) : execJp nnn s = .next (s.raise .outOfRangeJump (encode (.jp nnn))) := by
  rcases execJp_cases nnn s with ⟨heven, _⟩ | ⟨_, e⟩
  · omega
  · exact e

theorem execJpV0_of_valid (hle : s.offsetTarget nnn ≤ 0xFFF) (heven : s.offsetTarget nnn % 2 = 0) :
    execJpV0 nnn s = .next (s.setPc (BitVec.ofNat 16 (s.offsetTarget nnn))) := by
  rcases execJpV0_cases nnn s with ⟨_, _, e⟩ | ⟨hbad, _⟩
  · exact e
  · omega

theorem execJpV0_of_invalid (hbad : s.offsetTarget nnn > 0xFFF ∨ s.offsetTarget nnn % 2 = 1) :
    execJpV0 nnn s = .next (s.raise .outOfRangeJump (encode (.jpV0 nnn))) := by
  rcases execJpV0_cases nnn s with ⟨_, _, _⟩ | ⟨_, e⟩
  · omega
  · exact e

/-- The target of opcode Bnnn when `r` is the register that the jump selector names (40_step_and_control_flow.md R130). -/
theorem State.offsetTarget_eq {r : Reg} (hv0 : s.cfg.jumpQuirk = .v0 → r = 0)
    (hvx : s.cfg.jumpQuirk = .vx → r.val = nnn.toNat / 256) : s.offsetTarget nnn = nnn.toNat + s.v[r].toNat := by
  cases hquirk : s.cfg.jumpQuirk with
  | v0 =>
    rw [State.offsetTarget_v0 hquirk, hv0 hquirk]
    rfl
  | vx =>
    have hr : topNibble nnn = r := Fin.ext ((topNibble_val nnn).trans (hvx hquirk).symm)
    rw [State.offsetTarget_vx hquirk, hr]
    rfl

/-- Settles O17: an even literal is a valid target (`execJp_of_even`). -/
theorem jumpGoesToEvenAddress : Obligations.JumpGoesToEvenAddress :=
  fun _ nnn heven => ⟨_, execJp_of_even heven, toNat_ofNat_of_le (Addr.toNat_le nnn), rfl⟩

/-- Settles O21: the sum is the target under either selector (`State.offsetTarget_eq`), and it is valid. -/
theorem offsetJumpAddsSelectedRegister : Obligations.OffsetJumpAddsSelectedRegister := by
  intro s nnn r hv0 hvx hle heven
  rw [← State.offsetTarget_eq hv0 hvx] at hle heven ⊢
  exact ⟨_, execJpV0_of_valid hle heven, toNat_ofNat_of_le hle, rfl⟩

/-! ### Calls and returns (40_step_and_control_flow.md R126, R128) -/

/-- Settles O18: the successful `CALL` is `execCall_of_lt`. -/
theorem callPushesReturnAddress : Obligations.CallPushesReturnAddress := by
  intro s nnn heven hsp
  refine ⟨_, execCall_of_lt heven hsp, toNat_ofNat_of_le (Addr.toNat_le nnn), rfl, fun k => ?_, rfl⟩
  simp only [Fin.getElem_fin, Vector.getElem_set, eq_comm]

/-- Settles O19: the slot below `SP` is the one `RET` reads (`execRet_of_pos`). -/
theorem returnPopsMostRecentAddress : Obligations.ReturnPopsMostRecentAddress := by
  intro s k hsp
  have htop : s.sp.val - 1 = k.val := by omega
  exact ⟨_, execRet_of_pos (by omega), by simp only [htop, Fin.getElem_fin], htop, rfl⟩

/-- A `RET` right after a push pops what was pushed; of the stack only the slot written stays changed. -/
theorem execRet_of_pushed (hsp : s.sp.val < 16) (ret target : Word) :
    execRet { s with pc := target, stack := s.stack.set s.sp.val ret hsp, sp := ⟨s.sp.val + 1, by omega⟩ } =
      .next { s with pc := ret, stack := s.stack.set s.sp.val ret hsp } := by
  rw [execRet_of_pos (Nat.succ_pos _)]
  simp only [Nat.add_sub_cancel, Vector.getElem_set_self]

/-- Settles O20: the `CALL` pushes the advanced `PC` (`execCall_of_lt`) and the `RET` pops it (`execRet_of_pushed`). -/
theorem returnUndoesCall : Obligations.ReturnUndoesCall := by
  intro s nnn heven hsp
  refine ⟨_, _, execCall_of_lt heven hsp, execRet_of_pushed hsp s.pc _, rfl, rfl, fun k hk => ?_, rfl⟩
  exact Vector.getElem_set_ne hsp k.isLt hk.symm

/-- Settles O22, by the instruction's lemma for each faulting case; what a fault writes is `State.raise`. -/
theorem controlFlowFaults : Obligations.ControlFlowFaults := by
  intro s nnn r
  refine ⟨fun hodd => ⟨execJp_of_odd hodd, execCall_of_odd hodd⟩, execCall_of_full, execRet_of_empty, fun hv0 hvx hbad => ?_⟩
  rw [← State.offsetTarget_eq hv0 hvx] at hbad
  exact execJpV0_of_invalid hbad

end Sys2Proof.Machine

namespace Sys2Proof.Machine

/-! ### What the two register writes leave in the registers (41_load_arith_logic.md R151) -/

section RegisterWrites

variable (s : State) (x : Reg) (b : Byte) (f : Bool)

/-- `State.getV_setV` in the spelling of the statements. -/
theorem State.setV_reg (r : Reg) : (s.setV x b).v[r] = if r = x then b else s.v[r] := s.getV_setV x r b

theorem State.setV_reg_same : (s.setV x b).v[x] = b := s.getV_setV_same x b

/-- A register write leaves the other registers and everything else alone. -/
theorem State.setV_frame :
    (∀ r : Reg, r ≠ x → (s.setV x b).v[r] = s.v[r]) ∧ s.setV x b = { s with v := (s.setV x b).v } :=
  ⟨fun r hr => (s.setV_reg x b r).trans (if_neg hr), rfl⟩

variable {s x b f} in
/-- The result stays in its register unless that is VF, which the flag overwrites. -/
theorem State.setResultFlag_reg_same (hx : x ≠ 15) : (s.setResultFlag x b f).v[x] = b :=
  (s.getV_setResultFlag x x b f).trans ((if_neg hx).trans (if_pos rfl))

/-- VF ends as the flag, here said by the condition the flag decides. -/
theorem State.setResultFlag_decide (p : Prop) [Decidable p] :
    (s.setResultFlag x b (decide p)).v[(15 : Reg)] = if p then 1 else 0 := by
  rw [State.setResultFlag_VF]
  simp only [flagByte, decide_eq_true_eq]

/-- A write of result and flag leaves the other registers and everything else alone. -/
theorem State.setResultFlag_frame :
    (∀ r : Reg, r ≠ x → r ≠ 15 → (s.setResultFlag x b f).v[r] = s.v[r]) ∧
      s.setResultFlag x b f = { s with v := (s.setResultFlag x b f).v } :=
  ⟨fun r hrx hrVF => (s.getV_setResultFlag x r b f).trans ((if_neg hrVF).trans (if_neg hrx)), rfl⟩

end RegisterWrites

/-! ### Results and flags as numbers (41_load_arith_logic.md R150, R158 to R163) -/

theorem flagByte_toNat (f : Bool) : (flagByte f).toNat = f.toNat := by cases f <;> rfl

/-- Subtraction of bytes is the integers' subtraction modulo 256. -/
theorem toNat_sub_emod (a b : Byte) : ((a - b).toNat : Int) = ((a.toNat : Int) - b.toNat) % 256 := by
  have hb : b.toNat < 256 := b.isLt
  rw [BitVec.toNat_sub]
  omega

/-- A byte's lowest bit is its remainder by 2. -/
theorem flagByte_shiftedOutRight (a : Byte) : (flagByte (shiftedOutRight a)).toNat = a.toNat % 2 := by
  rw [flagByte_toNat, shiftedOutRight, BitVec.getLsbD, Nat.toNat_testBit, pow_zero, Nat.div_one]

/-- A byte's highest bit is its quotient by 128. -/
theorem flagByte_shiftedOutLeft (a : Byte) : (flagByte (shiftedOutLeft a)).toNat = a.toNat / 128 := by
  have ha : a.toNat / 128 < 2 := Nat.div_lt_of_lt_mul a.isLt
  rw [flagByte_toNat, shiftedOutLeft, BitVec.getLsbD, Nat.toNat_testBit]
  exact Nat.mod_eq_of_lt ha

/-- The source of a shift when `src` is the register that the shift selector names (41_load_arith_logic.md R160). -/
theorem State.shiftSource_eq {s : State} {x y src : Reg} (hvx : s.cfg.shiftQuirk = .vxOnly → src = x)
    (hvy : s.cfg.shiftQuirk = .vyToVx → src = y) : s.shiftSource x y = s.v[src] := by
  cases hquirk : s.cfg.shiftQuirk with
  | vxOnly =>
    rw [State.shiftSource_vxOnly hquirk, hvx hquirk]
    rfl
  | vyToVx =>
    rw [State.shiftSource_vyToVx hquirk, hvy hquirk]
    rfl

/-! ### Loads and immediate add (41_load_arith_logic.md R152 to R154) -/

/-- Settles O23: each of the two is one register write (`State.setV_reg`). -/
theorem loadsWriteOneRegister : Obligations.LoadsWriteOneRegister := by
  intro s x y kk
  exact ⟨⟨_, rfl, s.setV_reg x kk, rfl⟩, ⟨_, rfl, s.setV_reg x (s.getV y), rfl⟩⟩

/-- Settles O24: the one register written holds the sum of the two bytes. -/
theorem addImmediateWritesNoFlag : Obligations.AddImmediateWritesNoFlag := by
  intro s x kk
  refine ⟨_, rfl, ?_, s.setV_frame x _⟩
  rw [State.setV_reg_same]
  exact BitVec.toNat_add _ _

/-! ### Logic and random (41_load_arith_logic.md R155 to R157, R170) -/

/-- Settles O25: each of the three is one register write, of a byte whose bits the bit vector's operation gives. -/
theorem logicActsBitByBit : Obligations.LogicActsBitByBit := by
  intro s x y
  refine ⟨⟨_, rfl, fun b _ => ?_, s.setV_frame x _⟩, ⟨_, rfl, fun b _ => ?_, s.setV_frame x _⟩,
    ⟨_, rfl, fun b _ => ?_, s.setV_frame x _⟩⟩
  · rw [State.setV_reg_same]
    exact BitVec.getLsbD_or
  · rw [State.setV_reg_same]
    exact BitVec.getLsbD_and
  · rw [State.setV_reg_same]
    exact BitVec.getLsbD_xor

/-- Settles O28: the one register written holds the draw under the mask. -/
theorem randomByteUnderMask : Obligations.RandomByteUnderMask := by
  intro s x kk
  refine ⟨_, rfl, fun b _ => ?_, s.setV_frame x _⟩
  rw [State.setV_reg_same]
  exact BitVec.getLsbD_and

/-! ### Arithmetic with flag and shifts (41_load_arith_logic.md R158 to R163) -/

/-- Settles O26: each of the three writes a result and then a flag, and the flag is the decision of a comparison
(`State.setResultFlag_decide`). -/
theorem addAndSubtractSetFlag : Obligations.AddAndSubtractSetFlag := by
  intro s x y
  refine ⟨⟨_, rfl, fun hx => ?_, s.setResultFlag_decide x _ _, s.setResultFlag_frame x _ _⟩,
    ⟨_, rfl, fun hx => ?_, s.setResultFlag_decide x _ _, s.setResultFlag_frame x _ _⟩,
    ⟨_, rfl, fun hx => ?_, s.setResultFlag_decide x _ _, s.setResultFlag_frame x _ _⟩⟩
  · rw [State.setResultFlag_reg_same hx]
    exact BitVec.toNat_add _ _
  · rw [State.setResultFlag_reg_same hx]
    exact toNat_sub_emod _ _
  · rw [State.setResultFlag_reg_same hx]
    exact toNat_sub_emod _ _

/-- Settles O27: under either selector the byte shifted is `V[src]` (`State.shiftSource_eq`); a shift writes a result and then a
flag. -/
theorem shiftsMoveOneBitOut : Obligations.ShiftsMoveOneBitOut := by
  intro s x y src hvx hvy
  rw [← State.shiftSource_eq hvx hvy]
  refine ⟨⟨_, rfl, fun hx => ?_, ?_, s.setResultFlag_frame x _ _⟩, ⟨_, rfl, fun hx => ?_, ?_, s.setResultFlag_frame x _ _⟩⟩
  · rw [State.setResultFlag_reg_same hx, BitVec.toNat_ushiftRight, Nat.shiftRight_one]
  · rw [State.setResultFlag_VF, flagByte_shiftedOutRight]
  · rw [State.setResultFlag_reg_same hx, BitVec.toNat_shiftLeft, Nat.shiftLeft_eq, pow_one]
  · rw [State.setResultFlag_VF, flagByte_shiftedOutLeft]

end Sys2Proof.Machine

namespace Sys2Proof.Machine

/-! ### The index register (42_index_and_memory.md R181 to R183) -/

/-- A word with leading nibble A is `LD I, nnn` (30_encoding.md R94, R95 row 21). -/
theorem decode_of_fieldOp_A {w : Word} (hop : fieldOp w = 0xA) : decode w = .ok (.ldI (fieldNNN w)) := by
  simp only [decode, hop]

/-- The address literal of a word is its remainder by 4096. -/
theorem fieldNNN_eq_ofNat (w : Word) : fieldNNN w = BitVec.ofNat 12 (w.toNat % 4096) := by
  rw [← fieldNNN_toNat, BitVec.ofNat_toNat, BitVec.setWidth_eq]

/-- Settles O31: the leading nibble decides the decoding (`decode_of_fieldOp_A`), and a 12-bit literal keeps its value when it is
widened. -/
theorem loadIndexLiteral : Obligations.LoadIndexLiteral := by
  refine ⟨fun w hop => ?_, fun s nnn => ⟨_, rfl, ?_, rfl⟩⟩
  · rw [decode_of_fieldOp_A ((fieldOp_eq w).trans hop), fieldNNN_eq_ofNat]
  · exact BitVec.toNat_setWidth_of_le (by decide)

/-- The glyph of a digit has a 16-bit address, whatever the font's address is (42_index_and_memory.md R183). -/
theorem State.glyphAddr_lt (s : State) (digit : Fin 16) : s.cfg.fontBase.toNat + 5 * digit.val < 2 ^ 16 := by
  have hbase := s.cfg.fontBase.isLt
  omega

/-- Settles O32: the sum is that of bit vectors, and the glyph's address fits in `I` (`State.glyphAddr_lt`), the digit being the
register's remainder by 16 (`State.lowNibble_val`). -/
theorem indexArithmetic : Obligations.IndexArithmetic := by
  refine fun s x => ⟨⟨_, rfl, ?_, rfl⟩, ⟨_, rfl, ?_, rfl⟩⟩
  · have hwiden : ((s.getV x).setWidth 16).toNat = s.v[x].toNat := BitVec.toNat_setWidth_of_le (by decide)
    rw [State.setI_i, BitVec.toNat_add, hwiden]
  · rw [State.setI_i, BitVec.toNat_ofNat, Nat.mod_eq_of_lt (s.glyphAddr_lt _), State.lowNibble_val]

/-! ### Stores and loads at `I` (42_index_and_memory.md R185 to R187) -/

/-- A run of stores leaves every byte outside it alone. -/
theorem State.readByte_writeBytes_outside {s : State} (hm : Memory.wf s.mem) {a c : Nat} {bytes : List Byte}
    (hout : ∀ k < bytes.length, c % 4096 ≠ (a + k) % 4096) : (s.writeBytes a bytes).readByte c = s.readByte c :=
  read_writeBytes_outside hm hout

/-- Settles O33: the store is a run of three bytes at `I`, the digits (`decimalDigits_toNat`). -/
theorem storeDecimalDigits : Obligations.StoreDecimalDigits := by
  intro s x hm
  have hstored (k : Nat) (hk : k < 3) :
      (s.writeBytes (s.dataAddr 0) (decimalDigits (s.getV x))).readByte (s.i.toNat + k) = (decimalDigits (s.getV x))[k] :=
    State.readByte_writeBytes hm hk (by simp [memSize])
  obtain ⟨hundreds, tens, ones⟩ := decimalDigits_toNat (s.getV x)
  refine ⟨_, rfl, ?_, ?_, ?_, fun a hout => State.readByte_writeBytes_outside hm hout, rfl⟩
  · exact (congrArg BitVec.toNat (hstored 0 (by decide))).trans hundreds
  · exact (congrArg BitVec.toNat (hstored 1 (by decide))).trans tens
  · exact (congrArg BitVec.toNat (hstored 2 (by decide))).trans ones

/-- The run of registers is shorter than memory, so it does not pass itself. -/
theorem State.regsUpTo_length_le (s : State) (x : Reg) : (s.regsUpTo x).length ≤ memSize := by
  rw [State.regsUpTo_length, memSize]
  omega

/-- The run of registers stored takes in `V[r]` for each `r` up to `x`. -/
theorem State.lt_regsUpTo_length_iff (s : State) (x : Reg) (k : Nat) : k < (s.regsUpTo x).length ↔ k ≤ x.val := by
  rw [State.regsUpTo_length, Nat.lt_succ_iff]

/-- Settles O34: the store is a run of bytes at `I`, whose `r`-th byte is `V[r]` (`State.regsUpTo_getElem`). -/
theorem storeRegisters : Obligations.StoreRegisters := by
  intro s x hm
  refine ⟨_, rfl, fun r hrx => ?_, fun a hout => ?_, rfl⟩
  · have hr : r.val < (s.regsUpTo x).length := (s.lt_regsUpTo_length_iff x r).2 hrx
    exact (State.readByte_writeBytes hm hr (s.regsUpTo_length_le x)).trans (s.regsUpTo_getElem x r hr)
  · exact State.readByte_writeBytes_outside hm fun k hk => hout k ((s.lt_regsUpTo_length_iff x k).1 hk)

/-- Settles O35: the registers loaded are tabulated by number, and the table's entry for `r` is the byte at `I + r` or `V[r]`. -/
theorem loadRegisters : Obligations.LoadRegisters :=
  fun _ _ => ⟨_, rfl, fun r => Vector.getElem_ofFn r.isLt, rfl⟩

end Sys2Proof.Machine

namespace Sys2Proof.Machine

/-! ### Drawing a sprite (43_display.md R202, R205) -/

/-- A sprite of at most 32 rows flips the pixels for which it has a 1. -/
theorem Display.draw_pixel_of_covers (d : Display) {cx cy qx qy : Nat} {rows : List Byte} (h : rows.length ≤ 32)
    (hc : spriteCovers cx cy rows qx qy) : (d.draw cx cy rows).fb.pixel qx qy = !d.pixel qx qy :=
  (blitRows_pixel cx rows cy _ h qx qy).1 hc

/-- A sprite of at most 32 rows keeps every other pixel. -/
theorem Display.draw_pixel_of_not_covers (d : Display) {cx cy qx qy : Nat} {rows : List Byte} (h : rows.length ≤ 32)
    (hc : ¬spriteCovers cx cy rows qx qy) : (d.draw cx cy rows).fb.pixel qx qy = d.pixel qx qy :=
  (blitRows_pixel cx rows cy _ h qx qy).2 hc

/-- A draw collides exactly when the sprite has a 1 for a pixel that was set. -/
theorem Display.draw_coll (d : Display) {cx cy : Nat} {rows : List Byte} (h : rows.length ≤ 32) :
    (d.draw cx cy rows).coll = true ↔ ∃ qx qy, spriteCovers cx cy rows qx qy ∧ d.pixel qx qy = true :=
  (blitRows_coll cx rows cy _ h).trans (or_iff_right Bool.false_ne_true)

/-- A draw collides exactly when some pixel of the display goes from set to unset. -/
theorem Display.draw_coll_iff_unset (d : Display) {cx cy : Nat} {rows : List Byte} (h : rows.length ≤ 32) :
    (d.draw cx cy rows).coll = true ↔
      ∃ (px : Fin 64) (py : Fin 32), d.pixel px.val py.val = true ∧ (d.draw cx cy rows).fb.pixel px.val py.val = false := by
  rw [d.draw_coll h]
  constructor
  · rintro ⟨qx, qy, hc, hset⟩
    refine ⟨⟨qx % 64, Nat.mod_lt _ (by decide)⟩, ⟨qy % 32, Nat.mod_lt _ (by decide)⟩, ?_, ?_⟩
    · rw [pixel_mod, hset]
    · rw [pixel_mod, d.draw_pixel_of_covers h hc, hset, Bool.not_true]
  · rintro ⟨px, py, hset, hunset⟩
    refine ⟨px, py, ?_, hset⟩
    by_contra hc
    rw [d.draw_pixel_of_not_covers h hc, hset] at hunset
    cases hunset

/-- A second draw at the same place flips back what the first one flipped (43_display.md R204). -/
theorem Display.draw_draw (d : Display) (cx cy : Nat) {rows : List Byte} (h : rows.length ≤ 32) :
    ((d.draw cx cy rows).fb.draw cx cy rows).fb = d := by
  apply Display.ext_pixel
  intro px py _ _
  by_cases hc : spriteCovers cx cy rows px py
  · rw [draw_pixel_of_covers _ h hc, d.draw_pixel_of_covers h hc, Bool.not_not]
  · rw [draw_pixel_of_not_covers _ h hc, d.draw_pixel_of_not_covers h hc]

/-- A byte is not 0 exactly when it has a bit set. -/
theorem ne_zero_iff_exists_bit (b : Byte) : b ≠ 0 ↔ ∃ i < 8, b.getLsbD i = true := by
  constructor
  · intro hb
    by_contra hnone
    refine hb (BitVec.eq_of_getLsbD_eq fun i hi => ?_)
    exact (Bool.eq_false_of_not_eq_true fun hbit => hnone ⟨i, hi, hbit⟩).trans BitVec.getLsbD_zero.symm
  · rintro ⟨i, -, hbit⟩ rfl
    exact Bool.false_ne_true (BitVec.getLsbD_zero.symm.trans hbit)

/-- A sprite has a 1 for some pixel exactly when one of its bytes is not 0. -/
theorem exists_spriteCovers_iff (cx cy : Nat) (rows : List Byte) :
    (∃ qx qy, spriteCovers cx cy rows qx qy) ↔ ∃ b ∈ rows, b ≠ 0 := by
  constructor
  · rintro ⟨qx, qy, r, hr, -, c, hc, -, hbit⟩
    exact ⟨rows[r], List.getElem_mem hr, (ne_zero_iff_exists_bit _).2 ⟨7 - c, by omega, hbit⟩⟩
  · rintro ⟨b, hb, hne⟩
    obtain ⟨r, hr, rfl⟩ := List.getElem_of_mem hb
    obtain ⟨i, hi, hbit⟩ := (ne_zero_iff_exists_bit _).1 hne
    exact ⟨cx + (7 - i), cy + r, r, hr, rfl, 7 - i, by omega, rfl, by rwa [Nat.sub_sub_self (Nat.le_of_lt_succ hi)]⟩

/-- From a clear display the second draw meets exactly the sprite's own pixels set (43_display.md R204). -/
theorem Display.draw_draw_blank_coll (cx cy : Nat) {rows : List Byte} (h : rows.length ≤ 32) :
    ((blank.draw cx cy rows).fb.draw cx cy rows).coll = true ↔ ∃ qx qy, spriteCovers cx cy rows qx qy := by
  rw [draw_coll _ h]
  refine exists₂_congr fun qx qy => and_iff_left_of_imp fun hc => ?_
  rw [draw_pixel_of_covers _ h hc, pixel_blank, Bool.not_false]

/-- Settles O40: a sprite of at most 15 rows meets no row of the display twice, so the second draw flips back what the first one
flipped (`Display.draw_draw`), and after a clear display it meets the sprite's own pixels (`Display.draw_draw_blank_coll`). -/
theorem drawingTwiceRestoresDisplay : Obligations.DrawingTwiceRestoresDisplay := by
  intro d cx cy rows hlen
  have h : rows.length ≤ 32 := by omega
  exact ⟨d.draw_draw cx cy h, (Display.draw_draw_blank_coll cx cy h).trans (exists_spriteCovers_iff cx cy rows)⟩

/-! ### `CLS` and `DRW` (43_display.md R201 to R203) -/

/-- The pixels of the statement are those that the sprite read from memory covers. -/
theorem spriteSets_iff (s : State) (x y : Reg) (n : Fin 16) (px : Fin 64) (py : Fin 32) :
    spriteSets s x y n px py ↔ spriteCovers (s.getV x).toNat (s.getV y).toNat (s.sprite n.val) px.val py.val := by
  have hx : px.val % 64 = px.val := Nat.mod_eq_of_lt px.isLt
  have hy : py.val % 32 = py.val := Nat.mod_eq_of_lt py.isLt
  constructor
  · rintro ⟨r, hr, c, hc, hcol, hrow, hbit⟩
    have hlen : r < (s.sprite n.val).length := by rwa [State.sprite_length]
    exact ⟨r, hlen, hrow.trans hy.symm, c, hc, hcol.trans hx.symm, by rwa [State.sprite_getElem]⟩
  · rintro ⟨r, hlen, hrow, c, hc, hcol, hbit⟩
    have hr : r < n.val := by rwa [State.sprite_length] at hlen
    exact ⟨r, hr, c, hc, hcol.trans hx, hrow.trans hy, by rwa [State.sprite_getElem] at hbit⟩

/-- A sprite of `DRW` has at most 15 rows, so the wrap brings no two of them together. -/
theorem State.sprite_length_le (s : State) (n : Fin 16) : (s.sprite n.val).length ≤ 32 := by
  rw [State.sprite_length]
  omega

/-- Settles O39: the sprite covers the pixels of the statement (`spriteSets_iff`), drawing flips those and no other, and the flag
is the draw's collision (`Display.draw_coll_iff_unset`). -/
theorem drawXorsSpriteAndReportsCollision : Obligations.DrawXorsSpriteAndReportsCollision := by
  intro s x y n
  have hlen := s.sprite_length_le n
  have hcoll := s.fb.draw_coll_iff_unset (cx := (s.getV x).toNat) (cy := (s.getV y).toNat) hlen
  refine ⟨_, rfl, fun px py hs => ?_, fun px py hs => ?_, fun hunset => ?_, fun hkept => ?_, ?_, rfl⟩
  · exact s.fb.draw_pixel_of_covers hlen ((spriteSets_iff s x y n px py).1 hs)
  · exact s.fb.draw_pixel_of_not_covers hlen (mt (spriteSets_iff s x y n px py).2 hs)
  · exact (State.setV_reg_same _ VF _).trans (if_pos (hcoll.2 hunset))
  · exact (State.setV_reg_same _ VF _).trans (if_neg (mt hcoll.1 hkept))
  · exact (State.setV_frame _ VF _).1

/-- Settles O38: the word is one of the two exact words with leading nibble 0, and the display it writes is the blank one. -/
theorem clearUnsetsEveryPixel : Obligations.ClearUnsetsEveryPixel :=
  ⟨rfl, fun _ => ⟨_, rfl, fun px py => Display.pixel_blank px py, rfl⟩⟩

end Sys2Proof.Machine

namespace Sys2Proof.Machine

/-! ### The timer instructions (44_timer_instructions.md R210 to R212) -/

/-- A counter is above 0 exactly when its byte is not 0. -/
theorem State.soundActive_iff_st_ne_zero (s : State) : s.soundActive = true ↔ s.st ≠ 0 := by
  rw [State.soundActive, decide_eq_true_iff, gt_iff_lt, Nat.pos_iff_ne_zero]
  exact (BitVec.toNat_ne (x := s.st) (y := 0)).symm

/-- Settles O42: the load is one register write (`State.setV_reg`), each store is one write of a counter, and the sound follows
the counter written (`State.soundActive_iff_st_ne_zero`). -/
theorem timerMoves : Obligations.TimerMoves := by
  intro s x
  refine ⟨⟨_, rfl, s.setV_reg x s.dt, rfl⟩, ⟨_, rfl, rfl, rfl⟩, ⟨_, rfl, rfl, ?_, rfl⟩⟩
  exact (s.setSt (s.getV x)).soundActive_iff_st_ne_zero

end Sys2Proof.Machine

namespace Sys2Proof.Machine

variable {s : State}

/-! ### `SKP` and `SKNP` (45_keypad_instructions.md R220, R221, R224) -/

/-- The key a register names, by the value of its low nibble. -/
theorem State.lowNibble_eq_of_val {x : Reg} {k : Key} (hk : k.val = s.v[x].toNat % 16) : s.lowNibble x = k :=
  Fin.ext ((s.lowNibble_val x).trans hk.symm)

/-- Settles O15: each is a skip (`State.skipIf_of_iff`) on the level of the key the low nibble names, or on its opposite. -/
theorem keySkipsTestTheLevel : Obligations.KeySkipsTestTheLevel := by
  intro s x k hk
  rw [← State.lowNibble_eq_of_val hk]
  exact ⟨congrArg _ (State.skipIf_of_iff Iff.rfl), congrArg _ (State.skipIf_of_iff (iff_of_eq (Bool.not_eq_true' _)))⟩

/-! ### The key wait, step by step (45_keypad_instructions.md R222, R223, 60_exceptions.md R248) -/

theorem State.stepResult_of_waitKey (hrun : s.run = .waitKey) : s.stepResult = .waiting := by
  simp only [State.stepResult, hrun]

theorem State.stepResult_of_running (hrun : s.run = .running) : s.stepResult = .completed := by
  simp only [State.stepResult, hrun]

/-- Settles O46: the issue is `State.beginWait`, so the machine reports that it waits. -/
theorem keyWaitIsIssued : Obligations.KeyWaitIsIssued := fun s x =>
  ⟨s.beginWait x, rfl, s.beginWait_run x, s.beginWait_waitReg x, s.beginWait_hitValid x,
    State.stepResult_of_waitKey (s.beginWait_run x), rfl⟩

/-- A poll with the latch empty leaves the machine waiting. -/
theorem cpuStep_of_emptyLatch (hrun : s.run = .waitKey) (hlatch : s.hitValid = false) (rnd : Byte) :
    cpuStep rnd s = .next s := by
  rw [cpuStep_waitKey hrun, State.pollWait, hlatch]
  rfl

/-- A poll with the latch set ends the wait. -/
theorem cpuStep_of_latched (hrun : s.run = .waitKey) (hlatch : s.hitValid = true) (rnd : Byte) :
    cpuStep rnd s = .next s.endWait := by
  rw [cpuStep_waitKey hrun, State.pollWait, hlatch]
  rfl

/-- The state with `k` pressed and latched. -/
def State.latch (s : State) (k : Key) : State :=
  { s with keys := s.keys.set k.val true k.isLt, hitKey := k, hitValid := true }

/-- The first press of a key that was up is latched by a wait. -/
theorem State.keyEvent_press {k : Key} (hrun : s.run = .waitKey) (hlatch : s.hitValid = false) (hup : s.keys[k] = false) :
    s.keyEvent k true = s.latch k := by
  have hlatches : s.latches k true = true := by
    simp only [State.latches, hrun, hlatch, hup]
    rfl
  rw [State.keyEvent_eq, hlatches]
  rfl

/-- The end of a wait writes the latched key, as a number, into the remembered register. -/
theorem State.endWait_waitReg_toNat (s : State) : s.endWait.v[s.waitReg].toNat = s.hitKey.val := by
  have hreg : s.endWait.v[s.waitReg] = BitVec.ofNat 8 s.hitKey.val := State.setV_reg_same s s.waitReg _
  rw [hreg, BitVec.toNat_ofNat]
  omega

/-- The end of a wait writes no other register. -/
theorem State.endWait_reg_of_ne {r : Reg} (hr : r ≠ s.waitReg) : s.endWait.v[r] = s.v[r] :=
  (State.setV_reg s s.waitReg _ r).trans (if_neg hr)

/-- Settles O47, by the latch: `cpuStep_of_emptyLatch`, or `cpuStep_of_latched` and what the end of the wait writes. -/
theorem waitingStepPollsTheLatch : Obligations.WaitingStepPollsTheLatch := fun s rnd hrun =>
  ⟨fun hlatch => ⟨cpuStep_of_emptyLatch hrun hlatch rnd, State.stepResult_of_waitKey hrun⟩,
    fun hlatch => ⟨s.endWait, cpuStep_of_latched hrun hlatch rnd, s.endWait_waitReg_toNat, fun _ => State.endWait_reg_of_ne,
      s.endWait_hitValid, s.endWait_run, State.stepResult_of_running s.endWait_run, rfl⟩⟩

/-! ### The whole key wait -/

section KeyWait

variable {k : Key} {rnd : Byte} {rest : List Input}

/-- An idle step of the wait only uses up its input. -/
theorem step_idle (hrun : s.run = .waitKey) (hlatch : s.hitValid = false) (hinputs : s.inputs = .step rnd :: rest) :
    step s = .next { s with inputs := rest } :=
  (step_cons hinputs).trans (cpuStep_of_emptyLatch (s := { s with inputs := rest }) hrun hlatch rnd)

/-- The press of a key that was up, with the latch empty. -/
theorem step_press (hrun : s.run = .waitKey) (hlatch : s.hitValid = false) (hup : s.keys[k] = false)
    (hinputs : s.inputs = .keyEvent k true :: rest) : step s = .next (State.latch { s with inputs := rest } k) :=
  (step_cons hinputs).trans (congrArg _ (State.keyEvent_press (s := { s with inputs := rest }) hrun hlatch hup))

/-- A step with the latch set ends the wait. -/
theorem step_deliver (hrun : s.run = .waitKey) (hlatch : s.hitValid = true) (hinputs : s.inputs = .step rnd :: rest) :
    step s = .next { s with inputs := rest }.endWait :=
  (step_cons hinputs).trans (cpuStep_of_latched (s := { s with inputs := rest }) hrun hlatch rnd)

/-- Idle steps only use up their inputs, however many there are. -/
theorem runFor_idle (idle : List Byte) (hrun : s.run = .waitKey) (hlatch : s.hitValid = false)
    (hinputs : s.inputs = idle.map Input.step ++ rest) (n : Nat) :
    runFor (idle.length + n) s = runFor n { s with inputs := rest } := by
  induction idle generalizing s with
  | nil =>
    obtain rfl : s.inputs = rest := hinputs
    rw [List.length_nil, Nat.zero_add]
  | cons r idle ih =>
    rw [List.length_cons, Nat.add_right_comm, runFor_succ (step_idle hrun hlatch hinputs)]
    exact ih hrun hlatch rfl

/-- A wait with an empty latch, from its first poll to the delivery of the key. -/
theorem runFor_wait (idle : List Byte) (hrun : s.run = .waitKey) (hlatch : s.hitValid = false) (hup : s.keys[k] = false)
    (hinputs : s.inputs = idle.map Input.step ++ .keyEvent k true :: .step rnd :: rest) :
    runFor (idle.length + 2) s = .next (State.latch { s with inputs := rest } k).endWait := by
  have hpress := step_press (s := { s with inputs := .keyEvent k true :: .step rnd :: rest }) hrun hlatch hup rfl
  have hdeliver := step_deliver (s := State.latch { s with inputs := .step rnd :: rest } k) hrun rfl rfl
  rw [runFor_idle idle hrun hlatch hinputs, runFor_succ hpress 1, runFor_succ hdeliver 0]
  rfl

end KeyWait

/-- Settles O48: the step that issues the wait (`stepRunsDecodedInstruction`), then the wait itself (`runFor_wait`). -/
theorem keyWaitDeliversPressedKey : Obligations.KeyWaitDeliversPressedKey := by
  intro s x k idle r1 r2 rest hrun hdec hup hinputs
  have hissue : step s = .next (State.beginWait { s with
      inputs := idle.map Input.step ++ .keyEvent k true :: .step r2 :: rest, pc := s.pc + 2, rnd := r1 } x) :=
    (stepRunsDecodedInstruction s _ hrun hdec).1 r1 _ hinputs
  refine ⟨_, (runFor_succ hissue (idle.length + 2)).trans (runFor_wait idle rfl rfl hup rfl),
    State.endWait_waitReg_toNat _, rfl, rfl, fun r hr => ?_, rfl, rfl, rfl, rfl⟩
  exact State.endWait_reg_of_ne hr

end Sys2Proof.Machine

namespace Sys2Proof.Machine

variable {s t : State} {rnd : Byte}

/-! ### Fault entry (60_exceptions.md R230 to R232, R252) -/

/-- A step that halts a running machine has raised a fault on the advanced state, for the word fetched: an instruction records
its own word, which is the word it was decoded from (`encodeOfDecode`). -/
theorem cpuStep_halts_raise (hrun : s.run = .running) (h : cpuStep rnd s = .next t) (ht : t.run = .halted) :
    ∃ kind, t = (s.advance rnd).raise kind s.fetchWord := by
  rcases cpuStep_running_cases hrun h with ⟨i, hdec, hexec⟩ | ⟨_, _, rfl⟩
  · have hnot : (s.advance rnd).run ≠ .halted := by rw [State.advance_run, hrun]; nofun
    obtain ⟨kind, -, rfl⟩ := exec_halts hnot hexec ht
    obtain ⟨-, hword⟩ := encodeOfDecode _ _ hdec
    exact ⟨kind, by rw [hword]⟩
  · exact ⟨.unknownOpcode, rfl⟩

/-- Settles O9: the state is that of the fault raised (`cpuStep_halts_raise`), whose fields `State.raise_advance` gives; the
report and `status()` are read off it. -/
theorem faultEntryIsPrecise : Obligations.FaultEntryIsPrecise := by
  intro s t rnd hrun h ht
  obtain ⟨kind, rfl⟩ := cpuStep_halts_raise hrun h ht
  have haddr : ((s.advance rnd).raise kind s.fetchWord).errAddr = s.pc := by rw [State.raise_advance]
  have hcode {kind' : FaultKind} (hkind : kind = kind') :
      ((s.advance rnd).raise kind s.fetchWord).status.errCause = kind'.code := by rw [← hkind]; rfl
  exact ⟨kind, s.raise_advance rnd kind s.fetchWord, rfl, State.stepResult_of_halted ht, rfl, haddr, rfl, rfl,
    hcode, hcode, hcode, hcode⟩

/-! ### Timer ticks (60_exceptions.md R245, R247) -/

theorem step_timerTick {rest : List Input} (hinputs : s.inputs = .timerTick :: rest) :
    step s = .next (State.timerTick { s with inputs := rest }) :=
  step_cons hinputs

/-- A tick before `n` more is one tick more taken from the counter. -/
theorem countDown_toNat_sub (b : Byte) (n : Nat) : (countDown b).toNat - n = b.toNat - (n + 1) := by
  rw [countDown_toNat]
  omega

/-- Settles O44, by induction on the number of ticks: the first tick counts each timer down, and the ticks left take the rest
(`countDown_toNat_sub`). -/
theorem ticksReachZeroAndStay : Obligations.TicksReachZeroAndStay := by
  intro n
  induction n with
  | zero =>
    intro s rest hinputs
    obtain rfl : s.inputs = rest := hinputs
    exact ⟨s, rfl, rfl, rfl, rfl⟩
  | succ n ih =>
    intro s rest hinputs
    obtain ⟨t, hrest, hdt, hst, ht⟩ :=
      ih (State.timerTick { s with inputs := List.replicate n .timerTick ++ rest }) rest rfl
    exact ⟨t, (runFor_succ (step_timerTick hinputs) n).trans hrest, hdt.trans (countDown_toNat_sub s.dt n),
      hst.trans (countDown_toNat_sub s.st n), ht⟩

/-- Settles O43: each counter is counted down (`countDown_toNat`), and `State.timerTick` writes nothing else. -/
theorem tickCountsEachTimerDown : Obligations.TickCountsEachTimerDown := by
  intro s
  have hdt : s.timerTick.dt.toNat = s.dt.toNat - 1 := countDown_toNat s.dt
  have hst : s.timerTick.st.toNat = s.st.toNat - 1 := countDown_toNat s.st
  exact ⟨s.timerTick, rfl, fun _ => hdt, fun _ => by omega, fun _ => hst, fun _ => by omega, rfl⟩

/-! ### What stops a step (60_exceptions.md R230, R235) -/

/-- Settles O49: an instruction with several cases by its lemma, each case a next state; every other is one next state. -/
theorem everyInstructionAnswersNext : Obligations.EveryInstructionAnswersNext := by
  intro i s
  cases i with
  | ret => rcases execRet_cases s with ⟨_, e⟩ | ⟨_, e⟩ <;> exact ⟨_, e⟩
  | call nnn => rcases execCall_cases nnn s with ⟨_, e⟩ | ⟨_, _, e⟩ | ⟨_, _, e⟩ <;> exact ⟨_, e⟩
  | _ => exact ⟨_, rfl⟩

/-- A `Step` answers a next state in every run state. -/
theorem cpuStep_answers_next (rnd : Byte) (s : State) : ∃ t, cpuStep rnd s = .next t := by
  cases hrun : s.run with
  | halted => exact ⟨s, cpuStep_halted hrun rnd⟩
  | waitKey => exact ⟨s.pollWait, cpuStep_waitKey hrun rnd⟩
  | running =>
    rw [cpuStep_running hrun]
    cases hdec : decode s.fetchWord with
    | ok i =>
      rw [executeWord_ok hdec]
      exact everyInstructionAnswersNext i _
    | error e => exact ⟨_, executeWord_error hdec _⟩

/-- A step that answers no next state performs a `PowerOn`. -/
theorem step_eq_powerOn_of_no_next (hstop : ∀ t, step s ≠ .next t) :
    ∃ cfg rom rest, s.inputs = .powerOn cfg rom :: rest ∧ step s = powerOn cfg rom { s with inputs := rest } := by
  cases hin : s.inputs with
  | nil =>
    obtain ⟨t, ht⟩ := cpuStep_answers_next (Config.freeDraw s.draws) { s with draws := s.draws + 1 }
    exact absurd ((step_nil hin).trans ht) (hstop t)
  | cons e rest =>
    cases e with
    | step rnd =>
      obtain ⟨t, ht⟩ := cpuStep_answers_next rnd { s with inputs := rest }
      exact absurd ((step_cons hin).trans ht) (hstop t)
    | timerTick => exact absurd (step_cons hin) (hstop _)
    | keyEvent k p => exact absurd (step_cons hin) (hstop _)
    | powerOn cfg rom => exact ⟨cfg, rom, rest, rfl, step_cons hin⟩

/-- The fault of a power-on is `LoadError`, for an image that is too long (60_exceptions.md R235). -/
theorem powerOn_fault {cfg : Cfg} {rom : List Byte} {f : Fault} (h : powerOn cfg rom s = .fault f) :
    f = .loadError ∧ rom.length > romMax := by
  unfold powerOn at h
  split at h
  · next hlong =>
    cases h
    exact ⟨rfl, hlong⟩
  · split at h <;> cases h

/-- A power-on is refused for a font address the spec excludes (00_scope.md R7). -/
theorem powerOn_refused {cfg : Cfg} {rom : List Byte} {r : Refusal} (h : powerOn cfg rom s = .refused r) :
    r = .fontBaseOutOfRange ∧ ¬cfg.wf := by
  unfold powerOn at h
  split at h
  · cases h
  · split at h
    · cases h
    · next hfont =>
      cases h
      exact ⟨rfl, hfont⟩

/-- Settles O50: the step performed a `PowerOn` (`step_eq_powerOn_of_no_next`), whose fault and refusal have one cause each. -/
theorem onlyPowerOnStops : Obligations.OnlyPowerOnStops := by
  intro s
  constructor
  · intro f hf
    obtain ⟨cfg, rom, rest, hin, hstep⟩ := step_eq_powerOn_of_no_next (s := s) (by rw [hf]; nofun)
    obtain ⟨hkind, hlong⟩ := powerOn_fault (hstep.symm.trans hf)
    exact ⟨hkind, cfg, rom, rest, hin, hlong⟩
  · intro r hr
    obtain ⟨cfg, rom, rest, hin, hstep⟩ := step_eq_powerOn_of_no_next (s := s) (by rw [hr]; nofun)
    obtain ⟨hkind, hfont⟩ := powerOn_refused (hstep.symm.trans hr)
    exact ⟨hkind, cfg, rom, rest, hin, Nat.lt_of_not_le hfont⟩

/-! ### Key events (60_exceptions.md R240, R248) -/

/-- When a key event fills the latch: a press that is an edge, during a wait whose latch is empty. -/
theorem State.latches_iff (s : State) (k : Key) (p : Bool) :
    s.latches k p = true ↔ s.run = .waitKey ∧ p = true ∧ s.keys[k] = false ∧ s.hitValid = false := by
  simp only [State.latches, Bool.and_eq_true, Bool.not_eq_true', beq_iff_eq, and_assoc]

/-- The levels after a key event. -/
theorem State.keyEvent_level (s : State) (k : Key) (p : Bool) (j : Key) :
    (s.keyEvent k p).keys[j] = if j = k then p else s.keys[j] := by
  simp only [State.keyEvent_eq, Fin.getElem_fin, Vector.getElem_set, Fin.ext_iff, eq_comm]

/-- Settles O45: the new state is that of `State.keyEvent_eq`; the latch is filled as `State.latches_iff` says. -/
theorem keyEventSetsLevelAndLatch : Obligations.KeyEventSetsLevelAndLatch := by
  intro s k p
  refine ⟨s.keyEvent k p, rfl, s.keyEvent_level k p, ?_, ?_, ?_⟩
  · rw [← State.latches_iff, State.keyEvent_eq]
    intro hlatch
    exact ⟨if_pos hlatch, if_pos hlatch⟩
  · rw [← State.latches_iff, State.keyEvent_eq]
    intro hlatch
    exact ⟨if_neg hlatch, if_neg hlatch⟩
  · rw [State.keyEvent_eq]

/-- Settles O53: a tick writes the counters alone, a key event the keys and the latch alone (`State.keyEvent_eq`). -/
theorem eventsNeverTouchTheProgram : Obligations.EventsNeverTouchTheProgram := by
  rintro s t e (rfl | ⟨k, p, rfl⟩) h
  · cases h
    exact ⟨rfl, rfl, rfl, rfl, rfl, fun _ => rfl, rfl, rfl, rfl, rfl, rfl, rfl⟩
  · obtain rfl : s.keyEvent k p = t := Host.Outcome.next.inj h
    rw [State.keyEvent_eq]
    exact ⟨rfl, rfl, rfl, rfl, rfl, fun _ => rfl, rfl, rfl, rfl, rfl, rfl, rfl⟩

/-! ### The sound query (60_exceptions.md R251) -/

/-- Settles O60: the query decides whether `ST` is above 0. -/
theorem soundActiveWhenTimerRuns : Obligations.SoundActiveWhenTimerRuns := fun _ => decide_eq_true_iff

end Sys2Proof.Machine

namespace Sys2Proof.Machine

/-! ### The jump to itself (70_reset_and_hazards.md R287) -/

/-- A step at the final loop comes back to it: it takes a draw, and nothing else changes. -/
theorem step_atFinalLoop {s : State} (hloop : s.atFinalLoop) (heven : s.pc.toNat % 2 = 0) (hinputs : s.inputs = []) :
    step s = .next { s with rnd := Config.freeDraw s.draws, draws := s.draws + 1 } := by
  obtain ⟨hrun, nnn, hdec, hpc⟩ := hloop
  have htarget : BitVec.ofNat 16 nnn.toNat = s.pc := by rw [← hpc, BitVec.ofNat_toNat, BitVec.setWidth_eq]
  refine ((stepRunsDecodedInstruction s _ hrun hdec).2 hinputs).trans ((execJp_of_even (hpc ▸ heven)).trans ?_)
  rw [htarget]
  rfl

/-- Settles O56, by induction on the number of steps: the first comes back to the same loop (`step_atFinalLoop`). -/
theorem selfJumpLoopsForever : Obligations.SelfJumpLoopsForever := by
  intro s n hloop heven hinputs
  induction n generalizing s with
  | zero => exact ⟨s, rfl, rfl⟩
  | succ n ih =>
    obtain ⟨t, hrest, ht⟩ :=
      ih { s with rnd := Config.freeDraw s.draws, draws := s.draws + 1 } hloop heven hinputs
    exact ⟨t, (runFor_succ (step_atFinalLoop hloop heven hinputs) n).trans hrest, ht⟩

/-! ### Power-on (70_reset_and_hazards.md R270, R271) -/

section PowerOn

variable {cfg : Cfg} {rom : List Byte}

/-- A power-on with a legal font address and an image that fits answers the powered-on machine. -/
theorem powerOn_of_fits (hrom : rom.length ≤ romMax) (hcfg : cfg.wf) (s : State) :
    powerOn cfg rom s = .next (s.poweredOn cfg rom) := by
  rw [powerOn, if_neg (Nat.not_lt.2 hrom), if_pos hcfg]

/-- The image stands at `ROM_BASE`: it is loaded last. -/
theorem read_loadedMemory_image (hrom : rom.length ≤ romMax) {k : Nat} (hk : k < rom.length) :
    Memory.read (loadedMemory cfg rom) (romBase + k) = rom[k] :=
  read_writeBytes_inside (writeBytes_wf filled_wf _ _) hk (hrom.trans (by decide))

/-- The image leaves every other byte of memory alone. -/
theorem read_loadedMemory_outside_image (hrom : rom.length ≤ romMax) {a : Nat} (ha : a < memSize)
    (hout : ¬(romBase ≤ a ∧ a < romBase + rom.length)) :
    Memory.read (loadedMemory cfg rom) a = Memory.read (Memory.writeBytes Memory.filled cfg.fontBase.toNat fontBytes) a := by
  refine read_writeBytes_outside (writeBytes_wf filled_wf _ _) fun k hk => ?_
  simp only [phys, memSize, romBase, romMax] at *
  omega

theorem fontBytes_length : fontBytes.length = 80 := by decide

/-- The font stands at `FONT_BASE`: it lies below the image. -/
theorem read_loadedMemory_font (hrom : rom.length ≤ romMax) (hcfg : cfg.wf) {k : Nat} (hk : k < fontBytes.length) :
    Memory.read (loadedMemory cfg rom) (cfg.fontBase.toNat + k) = fontBytes[k] := by
  have hbelow : cfg.fontBase.toNat + k < romBase := by
    rw [fontBytes_length] at hk
    simp only [romBase]
    omega
  rw [read_loadedMemory_outside_image hrom (hbelow.trans (by decide)) (by omega)]
  exact read_writeBytes_inside filled_wf hk (by decide)

/-- Every address that is neither the image's nor the font's holds `FILL`. -/
theorem read_loadedMemory_fill (hrom : rom.length ≤ romMax) (hcfg : cfg.wf) {a : Nat} (ha : a < memSize)
    (himage : ¬(romBase ≤ a ∧ a < romBase + rom.length))
    (hfont : ¬(cfg.fontBase.toNat ≤ a ∧ a < cfg.fontBase.toNat + 80)) : Memory.read (loadedMemory cfg rom) a = fill := by
  rw [read_loadedMemory_outside_image hrom ha himage, read_writeBytes_outside filled_wf, read_filled]
  intro k hk
  rw [fontBytes_length] at hk
  simp only [phys, memSize] at *
  omega

end PowerOn

/-- Settles O57: the three ranges of loaded memory (`read_loadedMemory_image`, `read_loadedMemory_font`,
`read_loadedMemory_fill`). -/
theorem powerOnLoadsFontAndProgram : Obligations.PowerOnLoadsFontAndProgram := fun s _ _ hrom hcfg =>
  ⟨_, powerOn_of_fits hrom hcfg s, fun _ => read_loadedMemory_image hrom, fun _ => read_loadedMemory_font hrom hcfg,
    fun _ => read_loadedMemory_fill hrom hcfg⟩

/-- Settles O58: an image that is too long is `LoadError`; otherwise the machine is the reset state but for memory, `cfg`
and the host's own fields (`powerOn_of_fits`). -/
theorem powerOnResetsEverything : Obligations.PowerOnResetsEverything := by
  intro s cfg rom
  refine ⟨fun hlong => if_pos hlong, fun hrom hcfg => ⟨s.poweredOn cfg rom, powerOn_of_fits hrom hcfg s, ?_⟩⟩
  exact ⟨fun r => Vector.getElem_replicate r.isLt, rfl, rfl, rfl, fun k => Vector.getElem_replicate k.isLt, rfl, rfl,
    fun px py => Display.pixel_blank px py, fun k => Vector.getElem_replicate k.isLt, rfl, rfl, rfl, rfl, rfl, rfl, rfl, rfl⟩

/-- With the default font address and no image, loaded memory reads as memory that lists nothing. -/
theorem read_loadedMemory_default (a : Nat) : Memory.read (loadedMemory defaultCfg []) a = unlistedByte (phys a) := by
  rw [← read_phys]
  by_cases hfont : phys a < fontBytes.length
  · have hread := read_loadedMemory_font (cfg := defaultCfg) (rom := []) (by decide) (by decide) hfont
    rw [show defaultCfg.fontBase.toNat = 0 from rfl, Nat.zero_add] at hread
    exact hread.trans (List.getD_eq_getElem _ _ hfont).symm
  · have hge : 80 ≤ phys a := Nat.le_of_not_lt hfont
    rw [unlistedByte_of_ge hge]
    have himage : ¬(romBase ≤ phys a ∧ phys a < romBase + ([] : List Byte).length) := by
      rw [List.length_nil]
      omega
    exact read_loadedMemory_fill (by decide) (by decide) (phys_lt a) himage fun ⟨_, hlt⟩ => Nat.not_lt.2 hge hlt

/-- Memory loaded with the default font address and no image lists nothing: the canonical form is unique
(`canonicalMemoryIsUnique`). -/
theorem loadedMemory_default : loadedMemory defaultCfg [] = [] :=
  canonicalMemoryIsUnique _ _ (loadedMemory_wf _ _) nil_wf read_loadedMemory_default

/-- Settles O59: the powered-on machine differs from reset in memory alone, which is the same list (`loadedMemory_default`). -/
theorem resetIsDefaultPowerOn : Obligations.ResetIsDefaultPowerOn := by
  refine (powerOn_of_fits (by decide) (by decide) State.reset).trans ?_
  rw [State.poweredOn, loadedMemory_default]
  rfl

end Sys2Proof.Machine
